-- ==== Sys2Proof/Word.lean ====
section
/-! DEFINITION. The bit-vector types of the spec (00_scope.md R10, R11): `u8`, `u16`, `u32`.
Only names for types stand here; every operation a test could show wrong stands in Decode.lean or Machine/. -/

namespace Sys2Proof

/-- `u8` of rule R11: a byte of a PRS stream, of `HostMem` or of a control byte. -/
abbrev Byte := BitVec 8

/-- `u16` of rule R11: the long-form field `V` (R7). -/
abbrev Half := BitVec 16

/-- `u32` of rule R11: a cipher word, a seed, a command word, an operand word, `RESULT`. -/
abbrev Word := BitVec 32

end Sys2Proof
end

