-- ==== Sys2Proof/Config.lean ====
section
/-! DEFINITION. What the block's configuration fixes (00_scope.md R6: the OPEN and decision-marked parameters)
and the free values (93_implementation_defined.md I1; log 8, log 9). The document's own literals stand in
Machine/Params.lean, so that a golden vector can correct them (I16). -/

namespace Sys2Proof

/-- The parameters of rule R6 that the spec leaves OPEN or settles by a decision of its own.
They are fixed for the block's lifetime (R42); `State.cfg` carries them, so that every statement about every state
holds for every value of them (log 1). `N_CTX` is the number of context slots the state holds (log 2). -/
structure Config where
  /-- `PRS_WINDOW` (D5, C1): the largest distance the compressor searches. -/
  prsWindow : Nat
  /-- `PC_SLOT55_INIT` (D12): PC ring slot 55 before the first mix. -/
  pcSlot55Init : Word
  /-- `GC_FILL_TAP` (D16, C6): the plain XOR term of the fill is `word[i - GC_FILL_TAP]`. -/
  gcFillTap : Nat
  /-- `MAX_LEN` (OPEN): the largest buffer length a command accepts. -/
  maxLen : Nat
  /-- `ADDR_BITS` (OPEN): the width of the host byte address space. -/
  addrBits : Nat
  deriving DecidableEq, Repr

/-- DESIGN CHOICE (log 8). The free value of rule R64 and I1: byte number `k` that a PRS error leaves in a destination.
No body: nothing can be proved of its value. -/
opaque Config.freeByte : Nat → Byte

/-- DESIGN CHOICE (log 9). The free value of `RESULT` after a size probe whose length does not fit 32 bits (R40, R141).
No body: nothing can be proved of its value. -/
opaque Config.freeWord : Nat → Word

end Sys2Proof
end

