-- ==== Sys2Proof/Syntax.lean ====
section
/-! DEFINITION. The instructions: one constructor per row of opcode_table.json (30_encoding.md R75, R85). -/

namespace Sys2Proof

/-- The five PRS token forms (R75), in the priority order of R82, then the seven commands (R85).
A token carries the fields of its data bytes and length bits (R75, R76); a command carries `CW.VAR` (where read or
checked), `CW.SLOT` and its operand words (R84, R85). -/
inductive Instr where
  /-- `END` (R127): control bits `0,1`, data `00 00`. -/
  | endStream
  /-- `LCOPYT` (R126): `q = V[15:3]`, length byte `b2`; `V[2:0] = 0`, `V != 0`. -/
  | lcopyt (q : BitVec 13) (b2 : Byte)
  /-- `LCOPYH` (R125): length code `c = V[2:0]`, `q = V[15:3]`; `c != 0`. -/
  | lcopyh (c : BitVec 3) (q : BitVec 13)
  /-- `SCOPY` (R124): two-bit length `l = Lh*2 + Ll`, distance byte `d8`. -/
  | scopy (l : BitVec 2) (d8 : Byte)
  /-- `LIT` (R123): the literal byte. -/
  | lit (b : Byte)
  /-- `PRS.COMPRESS` (R110). -/
  | prsCompress (var : Byte) (slot : Half) (srcBase srcLen dstBase dstCap : Word)
  /-- `PRS.DECOMPRESS` (R140). -/
  | prsDecompress (var : Byte) (slot : Half) (srcBase srcLen dstBase dstCap : Word)
  /-- `PRS.SIZE` (R141). -/
  | prsSize (var : Byte) (slot : Half) (srcBase srcLen : Word)
  /-- `CIPHER.CREATE_KEYS` (R191). -/
  | cipherCreateKeys (var : Byte) (slot : Half) (seed : Word)
  /-- `CIPHER.CRYPT` (R194). -/
  | cipherCrypt (var : Byte) (slot : Half) (bufBase bufLen flags : Word)
  /-- `CIPHER.NEXT_WORD` (R195). -/
  | cipherNextWord (var : Byte) (slot : Half)
  /-- `CIPHER.RELEASE` (R196). -/
  | cipherRelease (var : Byte) (slot : Half)
  deriving DecidableEq, Repr

/-- The row is a PRS token (R75); the other rows are commands (R85). -/
def Instr.isToken : Instr → Bool
  | .endStream => true
  | .lcopyt _ _ => true
  | .lcopyh _ _ => true
  | .scopy _ _ => true
  | .lit _ => true
  | .prsCompress _ _ _ _ _ _ => false
  | .prsDecompress _ _ _ _ _ _ => false
  | .prsSize _ _ _ _ => false
  | .cipherCreateKeys _ _ _ => false
  | .cipherCrypt _ _ _ _ _ => false
  | .cipherNextWord _ _ => false
  | .cipherRelease _ _ => false

end Sys2Proof
end

