-- ==== Sys2Proof/WellFormed.lean ====
section
/-! DEFINITION. Which instruction terms are well formed: the long copies keep clear of the reserved field values
(30_encoding.md R75, R81), and a field a command does not read is 0 (R84, R85). -/

namespace Sys2Proof

/-- The checks a term can fail, by name. -/
inductive Malformed where
  /-- `LCOPYT` with `V = 0`, which is `END` (R81). -/
  | reservedV
  /-- `LCOPYH` with length code 0, which means "length follows" (R79). -/
  | zeroLengthCode
  /-- `CW.VAR != 0` in a command other than `CREATE_KEYS` (R84). -/
  | varNotZero
  /-- `CW.SLOT != 0` in a PRS command (R84). -/
  | slotNotZero
  /-- `flags[31:1] != 0` in `CRYPT` (R85). -/
  | flagsReserved
  deriving DecidableEq, Repr

/-- The check on a PRS command's unread fields (R84). -/
def prsFieldChecks (var : Byte) (slot : Half) : List Malformed :=
  (if var = 0 then [] else [.varNotZero]) ++ (if slot = 0 then [] else [.slotNotZero])

/-- The check on a cipher command's unread `VAR` (R84, R190). -/
def cipherFieldChecks (var : Byte) : List Malformed :=
  if var = 0 then [] else [.varNotZero]

/-- Every check that `i` fails. -/
def Instr.malformed : Instr → List Malformed
  | .endStream => []
  | .lcopyt q _ => if q = 0 then [.reservedV] else []
  | .lcopyh c _ => if c = 0 then [.zeroLengthCode] else []
  | .scopy _ _ => []
  | .lit _ => []
  | .prsCompress var slot _ _ _ _ => prsFieldChecks var slot
  | .prsDecompress var slot _ _ _ _ => prsFieldChecks var slot
  | .prsSize var slot _ _ => prsFieldChecks var slot
  | .cipherCreateKeys _ _ _ => []
  | .cipherCrypt var _ _ _ flags =>
      cipherFieldChecks var ++ (if flags >>> 1 = 0 then [] else [.flagsReserved])
  | .cipherNextWord var _ => cipherFieldChecks var
  | .cipherRelease var _ => cipherFieldChecks var

/-- The term is an instruction of the spec: no check fails. -/
abbrev Instr.WellFormed (i : Instr) : Prop := i.malformed = []

end Sys2Proof
end

