-- ==== Sys2Proof/Decode.lean ====
section
/-! DEFINITION. Decoding and encoding (30_encoding.md): the PRS token stream (R70-R83) and the command words
(R84-R86); after them the encoder, and the opcode table's own numbering of an instruction's bits (R82, R84). -/

namespace Sys2Proof

/-! ### Bit fields -/

/-- `LE16` (R12, R54). -/
def le16 (b0 b1 : Byte) : Half := b0.setWidth 16 ||| (b1.setWidth 16 <<< 8)

/-- The low byte of a long-form field `V` (R76). -/
def lowByte (v : Half) : Byte := v.extractLsb' 0 8

/-- The high byte of a long-form field `V` (R76). -/
def highByte (v : Half) : Byte := v.extractLsb' 8 8

/-- `V[2:0]`, the length code `c` (R76). -/
def lengthCode (v : Half) : BitVec 3 := v.extractLsb' 0 3

/-- `V[15:3]`, the distance code `q` (R76). -/
def distanceCode (v : Half) : BitVec 13 := v.extractLsb' 3 13

/-- `V` from its two fields (R76). -/
def longField (c : BitVec 3) (q : BitVec 13) : Half := c.setWidth 16 ||| (q.setWidth 16 <<< 3)

/-- `L = Lh*2 + Ll` (R75). -/
def lengthBits (lh ll : Bool) : BitVec 2 := (BitVec.ofBool lh).setWidth 2 <<< 1 ||| (BitVec.ofBool ll).setWidth 2

/-- `CW[7:0]`, the command code (R84). -/
def cwOp (cw : Word) : Byte := cw.extractLsb' 0 8

/-- `CW[15:8]`, the variant tag (R84). -/
def cwVar (cw : Word) : Byte := cw.extractLsb' 8 8

/-- `CW[31:16]`, the context slot index (R84). -/
def cwSlot (cw : Word) : Half := cw.extractLsb' 16 16

/-- A command word from its fields (R84, R191). -/
def commandWord (op var : Byte) (slot : Half) : Word :=
  op.setWidth 32 ||| (var.setWidth 32 <<< 8) ||| (slot.setWidth 32 <<< 16)

/-! ### Decoding -/

/-- Why a decoder gives no instruction. -/
inductive DecodeError where
  /-- The stream ended before the token did (R121); `srcPos` is the position that lies beyond the source. -/
  | exhausted (srcPos : Nat)
  /-- `CW.OP` is not in the table of R85. -/
  | unassignedOp (op : Byte)
  /-- Fewer operand words follow the command word than its format has (R85). -/
  | missingOperands (op : Byte)
  /-- There is no command word. -/
  | noCommandWord
  deriving DecidableEq, Repr

/-- The decompressor's cursor `dc` (10_state.md R24). -/
structure DecodeCursor where
  /-- `dc.srcPos`: the next stream byte to read, the token interpreter's program counter. -/
  srcPos : Nat
  /-- `dc.cbVal`: the bits of the control byte not yet consumed, next bit in bit 0. -/
  cbVal : Byte
  /-- `dc.cbLeft`: how many bits of the control byte are left. -/
  cbLeft : Nat
  /-- `dc.dstPos`: the count of bytes produced so far. -/
  dstPos : Nat
  deriving DecidableEq, Repr

/-- The cursor at the start of every decompress or size-probe command (R25). -/
def DecodeCursor.start : DecodeCursor := { srcPos := 0, cbVal := 0, cbLeft := 0, dstPos := 0 }

/-- `readByte()` (R121). `src i` is byte `i` of the source, and `none` from `srcLen` on. -/
def readByte (src : Nat → Option Byte) (c : DecodeCursor) : Except DecodeError (Byte × DecodeCursor) :=
  match src c.srcPos with
  | none => .error (.exhausted c.srcPos)
  | some v => .ok (v, { c with srcPos := c.srcPos + 1 })

/-- The rest of `readBit()` (R120), once the control byte holds a bit. -/
def takeBit (c : DecodeCursor) : Bool × DecodeCursor :=
  (c.cbVal.getLsbD 0, { c with cbVal := c.cbVal >>> 1, cbLeft := c.cbLeft - 1 })

/-- `readBit()` (R120): low bit first; a new control byte is opened when the bit is needed (R73). -/
def readBit (src : Nat → Option Byte) (c : DecodeCursor) : Except DecodeError (Bool × DecodeCursor) :=
  if c.cbLeft = 0 then
    match readByte src c with
    | .error e => .error e
    | .ok (v, c') => .ok (takeBit { c' with cbVal := v, cbLeft := 8 })
  else .ok (takeBit c)

/-- The data bytes of a token that opened with `0,1` (R80, R122): `B0`, `B1`, and `B2` for the trailer form. -/
def decodeLong (src : Nat → Option Byte) (c : DecodeCursor) : Except DecodeError (Instr × DecodeCursor) := do
  let (b0, c) ← readByte src c
  let (b1, c) ← readByte src c
  let v := le16 b0 b1
  if v = 0 then return (.endStream, c)
  if lengthCode v = 0 then
    let (b2, c) ← readByte src c
    return (.lcopyt (distanceCode v) b2, c)
  return (.lcopyh (lengthCode v) (distanceCode v), c)

/-- The rest of a token that opened with `0,0` (R124): two length bits, then the distance byte. -/
def decodeShort (src : Nat → Option Byte) (c : DecodeCursor) : Except DecodeError (Instr × DecodeCursor) := do
  let (lh, c) ← readBit src c
  let (ll, c) ← readBit src c
  let (d8, c) ← readByte src c
  return (.scopy (lengthBits lh ll) d8, c)

/-- One token of the stream (R80, R122): the instruction and the cursor after its last bit and byte. -/
def decodeToken (src : Nat → Option Byte) (c : DecodeCursor) : Except DecodeError (Instr × DecodeCursor) := do
  let (b1, c) ← readBit src c
  if b1 then
    let (b, c) ← readByte src c
    return (.lit b, c)
  let (b2, c) ← readBit src c
  if b2 then decodeLong src c else decodeShort src c

/-- The operand words of a command, by its code (R85). -/
def decodeOperands (op var : Byte) (slot : Half) (ws : List Word) : Except DecodeError (Instr × List Word) :=
  if op = 0x01 then
    match ws with
    | sb :: sl :: db :: dc :: rest => .ok (.prsCompress var slot sb sl db dc, rest)
    | _ => .error (.missingOperands op)
  else if op = 0x02 then
    match ws with
    | sb :: sl :: db :: dc :: rest => .ok (.prsDecompress var slot sb sl db dc, rest)
    | _ => .error (.missingOperands op)
  else if op = 0x03 then
    match ws with
    | sb :: sl :: rest => .ok (.prsSize var slot sb sl, rest)
    | _ => .error (.missingOperands op)
  else if op = 0x10 then
    match ws with
    | seed :: rest => .ok (.cipherCreateKeys var slot seed, rest)
    | _ => .error (.missingOperands op)
  else if op = 0x11 then
    match ws with
    | bb :: bl :: flags :: rest => .ok (.cipherCrypt var slot bb bl flags, rest)
    | _ => .error (.missingOperands op)
  else if op = 0x12 then .ok (.cipherNextWord var slot, ws)
  else if op = 0x13 then .ok (.cipherRelease var slot, ws)
  else .error (.unassignedOp op)

/-- One command from the words the host issued (R84, R85): the instruction and the words after it. -/
def decodeCommand (ws : List Word) : Except DecodeError (Instr × List Word) :=
  match ws with
  | [] => .error .noCommandWord
  | cw :: rest => decodeOperands (cwOp cw) (cwVar cw) (cwSlot cw) rest

/-! ### Encoding -/

/-- The control bits of a token, in channel order (R75); a command has none. -/
def controlBits : Instr → List Bool
  | .endStream => [false, true]
  | .lcopyt _ _ => [false, true]
  | .lcopyh _ _ => [false, true]
  | .scopy l _ => [false, false, l.getLsbD 1, l.getLsbD 0]
  | .lit _ => [true]
  | .prsCompress _ _ _ _ _ _ => []
  | .prsDecompress _ _ _ _ _ _ => []
  | .prsSize _ _ _ _ => []
  | .cipherCreateKeys _ _ _ => []
  | .cipherCrypt _ _ _ _ _ => []
  | .cipherNextWord _ _ => []
  | .cipherRelease _ _ => []

/-- The data bytes of a token, in stream order (R75, R76); a command has none. -/
def dataBytes : Instr → List Byte
  | .endStream => [0x00, 0x00]
  | .lcopyt q b2 => [lowByte (longField 0 q), highByte (longField 0 q), b2]
  | .lcopyh c q => [lowByte (longField c q), highByte (longField c q)]
  | .scopy _ d8 => [d8]
  | .lit b => [b]
  | .prsCompress _ _ _ _ _ _ => []
  | .prsDecompress _ _ _ _ _ _ => []
  | .prsSize _ _ _ _ => []
  | .cipherCreateKeys _ _ _ => []
  | .cipherCrypt _ _ _ _ _ => []
  | .cipherNextWord _ _ => []
  | .cipherRelease _ _ => []

/-- A control byte that holds `bits`, first bit in bit 0, unused high bits zero (R72, R74). -/
def packControl (bits : List Bool) : Byte :=
  bits.foldr (fun b acc => (acc <<< 1) ||| (BitVec.ofBool b).setWidth 8) 0

/-- A token as a stream of its own: one control byte at offset 0, then its data bytes (R73, R75). -/
def tokenStream (i : Instr) : List Byte := packControl (controlBits i) :: dataBytes i

/-- The words of a command: the command word and its operand words (R84, R85); a token has none. -/
def commandWords : Instr → List Word
  | .endStream => []
  | .lcopyt _ _ => []
  | .lcopyh _ _ => []
  | .scopy _ _ => []
  | .lit _ => []
  | .prsCompress var slot sb sl db dc => [commandWord 0x01 var slot, sb, sl, db, dc]
  | .prsDecompress var slot sb sl db dc => [commandWord 0x02 var slot, sb, sl, db, dc]
  | .prsSize var slot sb sl => [commandWord 0x03 var slot, sb, sl]
  | .cipherCreateKeys var slot seed => [commandWord 0x10 var slot, seed]
  | .cipherCrypt var slot bb bl flags => [commandWord 0x11 var slot, bb, bl, flags]
  | .cipherNextWord var slot => [commandWord 0x12 var slot]
  | .cipherRelease var slot => [commandWord 0x13 var slot]

/-- An instruction as it is stored: a token as stream bytes, a command as words. -/
inductive Encoded where
  | stream (bytes : List Byte)
  | words (ws : List Word)
  deriving DecidableEq, Repr

/-- The encoder of both languages (R75, R84). -/
def encode (i : Instr) : Encoded := if i.isToken then .stream (tokenStream i) else .words (commandWords i)

/-- A list of bytes as a source to read from. -/
def byteSource (bytes : List Byte) : Nat → Option Byte := fun i => bytes[i]?

/-- The first instruction stored (R80, R84). -/
def decode (e : Encoded) : Except DecodeError Instr :=
  match e with
  | .stream bytes => (decodeToken (byteSource bytes) DecodeCursor.start).map Prod.fst
  | .words ws => (decodeCommand ws).map Prod.fst

/-! ### The opcode table's numbering (R82, R84) -/

/-- The token key `K` of a token (R82); a command has key 0. -/
def tokenKey : Instr → BitVec 18
  | .endStream => 0x00002
  | .lcopyt q _ => 0x00002 ||| ((longField 0 q).setWidth 18 <<< 2)
  | .lcopyh c q => 0x00002 ||| ((longField c q).setWidth 18 <<< 2)
  | .scopy l _ => ((BitVec.ofBool (l.getLsbD 1)).setWidth 18 <<< 2) ||| ((BitVec.ofBool (l.getLsbD 0)).setWidth 18 <<< 3)
  | .lit _ => 0x00001
  | .prsCompress _ _ _ _ _ _ => 0
  | .prsDecompress _ _ _ _ _ _ => 0
  | .prsSize _ _ _ _ => 0
  | .cipherCreateKeys _ _ _ => 0
  | .cipherCrypt _ _ _ _ _ => 0
  | .cipherNextWord _ _ => 0
  | .cipherRelease _ _ => 0

/-- The stream of the token with key `K = k[17:0]` (R82). A data byte that the key does not number (`B`, `D8`, `B2`)
counts on from it as `k[25:18]` (DESIGN CHOICE, log 7). -/
def keyStream (k : BitVec 26) : List Byte :=
  let extra : Byte := k.extractLsb' 18 8
  let v : Half := k.extractLsb' 2 16
  if k.getLsbD 0 then [packControl [true], extra]
  else if k.getLsbD 1 then
    packControl [false, true] :: lowByte v :: highByte v :: (if v ≠ 0 ∧ lengthCode v = 0 then [extra] else [])
  else [packControl [false, false, k.getLsbD 2, k.getLsbD 3], extra]

/-- Operand words of the format with command code `op` (R85). -/
def operandCount (op : Byte) : Nat :=
  if op = 0x01 ∨ op = 0x02 then 4
  else if op = 0x03 then 2
  else if op = 0x10 then 1
  else if op = 0x11 then 3
  else 0

/-- The words of the command numbered `w`: word `k` is bits `32k+31..32k` (R84). -/
def tableCommandWords (w : Nat) : List Word :=
  BitVec.ofNat 32 w ::
    (List.range (operandCount (BitVec.ofNat 8 w))).map fun k => BitVec.ofNat 32 (w >>> (32 * (k + 1)))

/-- Whether a table row of `nbits` bits is a command row. A row of 32 bits or more is one, and so is a row of 16 bits:
no token row has 16. A row of 8 bits is the command whose code is its only fixed byte (`CREATE_KEYS`), else a token.
DESIGN CHOICE (log 7): the table numbers two languages from bit 0. -/
def isCommandRow (nbits w : Nat) : Bool :=
  decide (32 ≤ nbits) || nbits == 16 || (nbits == 8 && w == 0x10)

/-- The table's instruction as the hardware stores it. -/
def tableWord (nbits w : Nat) : Encoded :=
  if isCommandRow nbits w then .words (tableCommandWords w) else .stream (keyStream (BitVec.ofNat 26 w))

/-- The instruction the decoder reads from the table's word `w` (`nbits` bits, the bits above them 0). -/
def decodeTableWord (nbits w : Nat) : Option Instr :=
  match decode (tableWord nbits w) with
  | .ok i => some i
  | .error _ => none

end Sys2Proof
end

