-- ==== Sys2Proof/Machine/Params.lean ====
section
/-! DEFINITION. The parameters of 00_scope.md rule R6. The document's literals are unaudited (93 I16): each is one named
constant here, read by the rules that use it, so that a golden vector can correct it (log 16). -/

namespace Sys2Proof.Machine

/-- `PRS_MIN_LOOKBACK`: a candidate start `y` satisfies `y <= x - 3`. -/
def prsMinLookback : Nat := 3

/-- `PRS_MIN_MATCH`: a shorter best match emits a literal. -/
def prsMinMatch : Nat := 3

/-- `PRS_MAX_MATCH`: the match length cap. -/
def prsMaxMatch : Nat := 255

/-- `PRS_SHORT_MAX_DIST`: the short form needs `distance > -256`. -/
def prsShortMaxDist : Nat := 255

/-- `PRS_SHORT_MAX_LEN`: the short form needs `length <= 5`. -/
def prsShortMaxLen : Nat := 5

/-- `PRS_HDR_MAX_LEN`: the header long form needs `length <= 9`. -/
def prsHdrMaxLen : Nat := 9

/-- `PC_RING_WORDS`: slots 0..55. -/
def pcRingWords : Nat := 56

/-- The number of stores of the PC ring recurrence, and its modulus (R150). -/
def pcLiveWords : Nat := 55

/-- `PC_STRIDE`: key setup visits `(21*i) mod 55`. -/
def pcStride : Nat := 21

/-- `PC_LAG_HI`: the lag of mix pass 1. -/
def pcLagHi : Nat := 31

/-- `PC_LAG_LO`: the lag of mix pass 2. -/
def pcLagLo : Nat := 24

/-- `PC_INIT_MIXES`: mixes run by key setup. -/
def pcInitMixes : Nat := 4

/-- `PC_CURSOR_END`: the cursor value that triggers a mix. -/
def pcCursorEnd : Nat := 55

/-- `GC_RING_WORDS`: slots 0..520. -/
def gcRingWords : Nat := 521

/-- `GC_BASE_WORDS`: words made by the LCG. -/
def gcBaseWordCount : Nat := 17

/-- `GC_ROUNDS`: LCG rounds per base word. -/
def gcRounds : Nat := 32

/-- `GC_MULT`. -/
def gcMult : Word := 0x5D588B65

/-- `GC_INC`. -/
def gcInc : Word := 1

/-- `GC_LAG`: the mix lag. -/
def gcLag : Nat := 489

/-- `GC_INIT_MIXES`: mixes run by key setup. -/
def gcInitMixes : Nat := 3

/-- `GC_INIT_CURSOR`: the cursor after key setup. -/
def gcInitCursor : Nat := 520

/-- The configuration `State.reset` has: R6's defaults (`PRS_WINDOW` D5, `PC_SLOT55_INIT` D12, `GC_FILL_TAP` D16,
`MAX_LEN` and `ADDR_BITS` D3; log 3, log 16). -/
def defaultConfig : Config :=
  { prsWindow := 8175, pcSlot55Init := 0, gcFillTap := 1, maxLen := 2 ^ 32 - 1, addrBits := 32 }

/-- `N_CTX` of `State.reset`. DESIGN CHOICE (log 2): R6 leaves it OPEN, at least 1. -/
def resetSlotCount : Nat := 16

end Sys2Proof.Machine
end

