-- ==== Sys2Proof/Machine/State.lean ====
section
/-! DEFINITION. The state of the block as plain data (10_state.md), the reasons a step can stop, and the state after
reset (R43, R220). -/

namespace Sys2Proof.Machine

/-! ### Host memory (20_memory.md R50) -/

/-- `HostMem` as (address, byte) pairs: addresses strictly rising, no byte equal to `blankByte`. -/
abbrev Memory := List Host.Cell

/-- What an unlisted byte of `HostMem` reads as. DESIGN CHOICE (log 4): the spec gives `HostMem` no contents. -/
def blankByte : Byte := 0

/-- The canonical form: addresses strictly rising, no entry equal to what an unlisted address reads as. -/
abbrev Memory.wf (m : Memory) : Prop :=
  m.Pairwise (fun p q => p.1 < q.1) ∧ ∀ p ∈ m, p.2 ≠ blankByte

/-- A buffer `(base, len)`: bytes `base .. base+len-1` (R50). -/
structure Buffer where
  base : Nat
  len : Nat
  deriving DecidableEq, Repr

/-! ### Cipher context slots (10_state.md R30-R33) -/

/-- `slot[k].variant` (R31). BlueBurst is never stored (R192). -/
inductive Variant where
  /-- No keyed context. -/
  | none
  /-- A PC context (R32). -/
  | pc
  /-- A GameCube context (R33). -/
  | gc
  deriving DecidableEq, Repr

/-- One context slot. The PC ring and the GC ring are stored apart (log 11); the cursor is `ctx.cursor` of whichever
variant is keyed. -/
structure Context where
  /-- `ctx.variant` (R31). -/
  variant : Variant
  /-- `ctx.ring[0..55]` of a PC context (R32). -/
  pcRing : List Word
  /-- `ctx.ring[0..520]` of a GC context (R33). -/
  gcRing : List Word
  /-- `ctx.cursor` (R32, R33). -/
  cursor : Nat
  /-- `ctx.seed0` (R33, R176). -/
  seed0 : Word
  deriving DecidableEq, Repr

/-- A slot after reset (R43). -/
def Context.reset : Context :=
  { variant := .none, pcRing := List.replicate pcRingWords 0, gcRing := List.replicate gcRingWords 0,
    cursor := 0, seed0 := 0 }

/-! ### Per-command state (10_state.md R21-R27) -/

/-- The compressor cursor `cc` (R21). -/
structure CompressCursor where
  /-- `cc.x`: the next source byte to encode. -/
  x : Nat
  /-- `cc.dstPos`: where the next data byte goes. -/
  dstPos : Nat
  /-- `cc.cbPos`: the position of the open control byte. -/
  cbPos : Nat
  /-- `cc.cbVal`: the open control byte's accumulated value. -/
  cbVal : Byte
  /-- `cc.cbBits`: how many control bits the open control byte holds. -/
  cbBits : Nat
  deriving DecidableEq, Repr

/-- The compressor at work: its cursor and `out`, the destination bytes built so far (40_prs_compressor.md).
`out` holds `cc.dstPos` bytes; the byte at `cc.cbPos` is written when its control byte closes. -/
structure Emitter where
  cc : CompressCursor
  out : List Byte
  deriving DecidableEq, Repr

/-- The decode walk at work: its buffers and its cursor (R24, R42). `dst = none` is the size probe, `writing = false`
(R135). -/
structure Walk where
  src : Buffer
  dst : Option Buffer
  dc : DecodeCursor
  deriving DecidableEq, Repr

/-- The PRS command in progress. Commands are atomic (R8), so from a state without one no step shows one (log 6). -/
inductive Job where
  /-- `PRS.COMPRESS` between two steps of R104. -/
  | compress (src dst : Buffer) (e : Emitter)
  /-- `PRS.DECOMPRESS` or `PRS.SIZE` between two tokens of R122. -/
  | decode (w : Walk)
  deriving DecidableEq, Repr

/-! ### The state -/

/-- The block, the host memory it reaches, and its configuration. -/
structure State where
  /-- The parameters of R6, fixed for the block's lifetime (R42; log 1). -/
  cfg : Config
  /-- `HostMem` (R50). -/
  mem : Memory
  /-- `slot[0 .. N_CTX-1]` (R30); `N_CTX` is the length (log 2). -/
  slots : List Context
  /-- `STATUS` (R40). -/
  status : Byte
  /-- `RESULT` (R40). -/
  result : Word
  /-- The cursors and buffers of the PRS command in progress (R21-R27, R42). -/
  job : Option Job
  /-- The words the host has issued and the engine has not yet taken (R84; the model's own, log 5). -/
  port : List Word
  /-- How many free values have been drawn (the model's own, log 8). -/
  freeCount : Nat
  deriving DecidableEq, Repr

/-- Why the machine stops with a fault. No state a run from reset reaches raises one (log 14). -/
inductive Fault where
  /-- Raised by a token or a compressor step whose job names a buffer outside the address space or over `MAX_LEN`
  (R50): such a buffer is refused by every command, so only a state no command makes raises this. A host access to a
  byte that does not exist raises it too (Machine/HostPort.lean). Safe. -/
  | addressOutsideSpace
  /-- Raised by a decode walk that outlives `srcLen + 1` tokens, which R134 rules out: never raised. Safe. -/
  | walkUnfinished
  deriving DecidableEq, Repr

/-- The refusals of R201, the model-level refusal of R9: the command has no meaning and changes nothing (log 10). -/
inductive Refusal where
  /-- Raised by `exec` for an instruction with no meaning yet. None is left. Safe. -/
  | notModelled (mnemonic : String)
  /-- Raised by the fetch: `CW.OP` not in R85's table. Safe. -/
  | unassignedOp
  /-- Raised by a cipher command with `CW.SLOT >= N_CTX` (R190). Safe. -/
  | badSlot
  /-- Raised by a command with a nonzero field it does not read (R84). Safe. -/
  | reservedField
  /-- Raised by a PRS command or `CRYPT` with a buffer that R50 calls invalid. Safe. -/
  | badBuffer
  /-- Raised by `PRS.COMPRESS` and `PRS.DECOMPRESS` when `src` and `dst` share a byte (R58). Safe. -/
  | overlap
  /-- Raised by `CRYPT` with a length that is not a multiple of 4 (R57). Safe. -/
  | badLength
  /-- Raised by `CREATE_KEYS` with the BlueBurst tag (R192). Safe. -/
  | unsupported
  /-- Raised by a host write to `STATUS` or `RESULT` (R40). Safe. -/
  | readOnlyRegister
  /-- Raised by a token executed where no decode walk is in progress: a token exists only as part of a stream being
  decoded (R27). The step never does so (log 15). Safe. -/
  | noDecodeInProgress
  deriving DecidableEq, Repr

/-- The machine right after power-on reset (R43, R220). The configuration is R6's default, no byte of `HostMem` is
listed (log 4), the host has issued nothing (log 5). -/
def State.reset : State :=
  { cfg := defaultConfig, mem := [], slots := List.replicate resetSlotCount Context.reset, status := 0, result := 0,
    job := Option.none, port := [], freeCount := 0 }

end Sys2Proof.Machine
end

