-- ==== Sys2Proof/Machine/Flags.lean ====
section
/-! DEFINITION. `STATUS` and `RESULT`: the block's only flags (10_state.md R40, R41; 60_exceptions.md R200). -/

namespace Sys2Proof.Machine

/-- The errors of R200. -/
inductive ErrorCode where
  /-- `CREATE_KEYS` with a tag that is not 0, 1 or 2. -/
  | unknownCipherVariant
  /-- A token reads past `srcLen`, or a copy starts before the output. -/
  | malformedCompressedStream
  /-- The output would pass `dstCap`. -/
  | destinationTooSmall
  /-- `CRYPT` or `NEXT_WORD` on a slot with no context. -/
  | contextNotKeyed
  deriving DecidableEq, Repr

/-- `STATUS` after a command that completes: `OK` (R200). -/
def statusOk : Byte := 0x00

/-- `STATUS` after a command that fails (R200). -/
def statusOf : ErrorCode → Byte
  | .unknownCipherVariant => 0x01
  | .malformedCompressedStream => 0x02
  | .destinationTooSmall => 0x03
  | .contextNotKeyed => 0x04

/-- Whether `m` fits `RESULT[31:0]`. -/
def fitsResult (m : Nat) : Bool := decide (m < 2 ^ 32)

/-- `RESULT` for a PRS length `m` (R40). A length over 32 bits leaves it unstated: a free value (DESIGN CHOICE, log 9). -/
def lengthResult (freeCount m : Nat) : Word :=
  if fitsResult m then BitVec.ofNat 32 m else Config.freeWord freeCount

/-- How many free values `lengthResult` draws. -/
def lengthResultDraws (m : Nat) : Nat := if fitsResult m then 0 else 1

end Sys2Proof.Machine
end

