-- ==== Sys2Proof/Machine/Operands.lean ====
section
/-! DEFINITION. Operand assembly: distances and lengths (30_encoding.md R77, R78), words and bytes (00_scope.md R12),
buffers (20_memory.md R50, R58). -/

namespace Sys2Proof.Machine

/-! ### Decoding side (R77) -/

/-- `SCOPY`: `distance = zext_8(D8) - 256`. -/
def shortDistance (d8 : Byte) : Int := (d8.toNat : Int) - 256

/-- `SCOPY`: `length = L + 2`. -/
def shortLength (l : BitVec 2) : Nat := l.toNat + 2

/-- `LCOPYH`, `LCOPYT`: `distance = zext_13(q) - 8192`. -/
def longDistance (q : BitVec 13) : Int := (q.toNat : Int) - 8192

/-- `LCOPYH`: `length = c + 2`. -/
def headerLength (c : BitVec 3) : Nat := c.toNat + 2

/-- `LCOPYT`: `length = zext_8(B2) + 1`. -/
def trailerLength (b2 : Byte) : Nat := b2.toNat + 1

/-! ### Encoding side (R78) -/

/-- `trunc8(i)` (R12). -/
def trunc8 (i : Int) : Byte := BitVec.ofInt 8 i

/-- `SCOPY`: `D8 = trunc8(dist)`. -/
def shortDistanceByte (dist : Int) : Byte := trunc8 dist

/-- `LCOPYH`: `B0 = trunc8(dist << 3) & 0xF8 | ((len - 2) & 0x07)`. -/
def headerByte0 (dist : Int) (len : Nat) : Byte :=
  (trunc8 (dist * 8) &&& 0xF8) ||| (BitVec.ofNat 8 (len - 2) &&& 0x07)

/-- `LCOPYT`: `B0 = trunc8(dist << 3) & 0xF8`. -/
def trailerByte0 (dist : Int) : Byte := trunc8 (dist * 8) &&& 0xF8

/-- `LCOPYH`, `LCOPYT`: `B1 = trunc8(dist >> 5)`, with the arithmetic shift. -/
def longByte1 (dist : Int) : Byte := trunc8 (dist / 32)

/-- `LCOPYT`: `B2 = len - 1`. -/
def trailerByte2 (len : Nat) : Byte := BitVec.ofNat 8 (len - 1)

/-! ### Words and bytes (R12, R55) -/

/-- `LE32(b0..b3)`. -/
def le32 (b0 b1 b2 b3 : Byte) : Word :=
  b0.setWidth 32 ||| (b1.setWidth 32 <<< 8) ||| (b2.setWidth 32 <<< 16) ||| (b3.setWidth 32 <<< 24)

/-- `bytesLE32(w)`. -/
def bytesLE32 (w : Word) : List Byte :=
  [w.extractLsb' 0 8, w.extractLsb' 8 8, w.extractLsb' 16 8, w.extractLsb' 24 8]

/-! ### Buffers (R50, R58) -/

/-- The buffer that two operand words name. -/
def bufferOf (base len : Word) : Buffer := { base := base.toNat, len := len.toNat }

/-- The first address after the buffer. -/
def Buffer.stop (b : Buffer) : Nat := b.base + b.len

/-- R50: the length is at most `MAX_LEN` and the end is within `2^ADDR_BITS`. -/
def Buffer.valid (cfg : Config) (b : Buffer) : Bool :=
  decide (b.len ≤ cfg.maxLen) && decide (b.stop ≤ 2 ^ cfg.addrBits)

/-- R58: the two byte ranges share a byte. -/
def Buffer.overlaps (a b : Buffer) : Bool :=
  decide (max a.base b.base < min a.stop b.stop)

end Sys2Proof.Machine
end

