-- ==== Sys2Proof/Machine/Ops.lean ====
section
/-! DEFINITION. The named operations over memory, slots, status registers and the job; and how a command ends: with `ok`,
with an error (the block's only exception, 60_exceptions.md R200-R206: nothing is saved and nothing is returned from). -/

namespace Sys2Proof.Machine

/-- The outcome of a step of this block (R9): `next` for `ok` and `error`, `refused` for a refusal. -/
abbrev Result := Host.Outcome State Fault Refusal

/-! ### HostMem (R13, R50, R51) -/

/-- One byte of `HostMem`. -/
def Memory.read : Memory → Nat → Byte
  | [], _ => blankByte
  | (k, v) :: m, a => if k = a then v else Memory.read m a

/-- The entry a byte needs: none if an unlisted byte reads so. -/
def Memory.cell (a : Nat) (v : Byte) : Memory := if v = blankByte then [] else [(a, v)]

/-- `MemWrite` of one byte. It keeps the canonical form. -/
def Memory.write : Memory → Nat → Byte → Memory
  | [], a, v => Memory.cell a v
  | (k, w) :: m, a, v =>
    if k < a then (k, w) :: Memory.write m a v
    else Memory.cell a v ++ (if k = a then m else (k, w) :: m)

/-- Bytes `base .. base+n-1`. -/
def Memory.readBytes (m : Memory) (base n : Nat) : List Byte :=
  (List.range n).map fun i => m.read (base + i)

/-- Writes of one byte each, in increasing address order. -/
def Memory.writeBytes : Memory → Nat → List Byte → Memory
  | m, _, [] => m
  | m, base, b :: bs => Memory.writeBytes (m.write base b) (base + 1) bs

/-- `MemRead(buf, i, 4)`: `LE32` (R13, R55). -/
def Memory.readWord (m : Memory) (a : Nat) : Word :=
  le32 (m.read a) (m.read (a + 1)) (m.read (a + 2)) (m.read (a + 3))

/-- `MemWrite(buf, i, 4, w)`: `bytesLE32` (R13, R55). -/
def Memory.writeWord (m : Memory) (a : Nat) (w : Word) : Memory := m.writeBytes a (bytesLE32 w)

/-- The byte-by-byte copy of R132: `n` bytes from `source` to `target`, in increasing order, each read after the one before
is written. -/
def Memory.copyBytes : Memory → (source target n : Nat) → Memory
  | m, _, _, 0 => m
  | m, source, target, n + 1 =>
    Memory.copyBytes (m.write target (m.read source)) (source + 1) (target + 1) n

/-! ### Fields of the state -/

def State.withMem (s : State) (m : Memory) : State := { s with mem := m }

def State.withSlots (s : State) (l : List Context) : State := { s with slots := l }

def State.withJob (s : State) (j : Option Job) : State := { s with job := j }

def State.withPort (s : State) (ws : List Word) : State := { s with port := ws }

def State.withFreeCount (s : State) (n : Nat) : State := { s with freeCount := n }

/-- `STATUS` and `RESULT` are written together, at a command's end (R40). -/
def State.withOutcome (s : State) (status : Byte) (result : Word) : State :=
  { s with status := status, result := result }

/-- `N_CTX` (R6, R30). -/
def State.nCtx (s : State) : Nat := s.slots.length

/-- `slot[k] <- c`. -/
def State.withSlot (s : State) (k : Nat) (c : Context) : State := s.withSlots (s.slots.set k c)

/-! ### How a command ends -/

/-- `STATUS <- OK ; RESULT <- w` (R110, R140, R191, ...). -/
def State.finishOk (s : State) (w : Word) : State := s.withOutcome statusOk w

/-- The error of R200: `STATUS <- code ; RESULT <- 0` (R203). Nothing is saved, no control is transferred (R205). -/
def State.finishError (s : State) (e : ErrorCode) : State := s.withOutcome (statusOf e) 0

/-- `n` free bytes, numbered from `k` (R64, I1; log 8). -/
def freeBytes (k n : Nat) : List Byte := (List.range n).map fun i => Config.freeByte (k + i)

/-- R64, I1: after a PRS error every byte of `dst`, its whole capacity, is any value (log 8). -/
def State.unspecify (s : State) (dst : Option Buffer) : State :=
  match dst with
  | none => s
  | some d => (s.withMem (s.mem.writeBytes d.base (freeBytes s.freeCount d.len))).withFreeCount (s.freeCount + d.len)

/-- A PRS command ends with an error (R203): its cursor is dropped (R22), its destination is unspecified (R64). -/
def State.prsError (s : State) (dst : Option Buffer) (e : ErrorCode) : State :=
  ((s.unspecify dst).withJob none).finishError e

/-- A PRS command ends with `ok(m)`: its cursor is dropped (R22), `RESULT` is the length (R40; log 9). -/
def State.prsOk (s : State) (m : Nat) : State :=
  ((s.withJob none).finishOk (lengthResult s.freeCount m)).withFreeCount (s.freeCount + lengthResultDraws m)

/-! ### Checks that commands share -/

/-- R190, check 1: the slot exists. `f` gets the slot's number and its context. -/
def onSlot (slot : Half) (s : State) (f : Nat → Context → Result) : Result :=
  match s.slots[slot.toNat]? with
  | none => .refused .badSlot
  | some ctx => f slot.toNat ctx

/-- R110, R140, R141, first line: `CW.VAR` and `CW.SLOT` must be 0. -/
def onPrsFields (var : Byte) (slot : Half) (k : Result) : Result :=
  if var ≠ 0 ∨ slot ≠ 0 then .refused .reservedField else k

end Sys2Proof.Machine
end

