-- ==== Sys2Proof/Machine/PcCipher.lean ====
section
/-! DEFINITION. The PC keystream engine (42_cipher_pc.md R150-R158), and the ring accessors and the word-by-word
transform that both engines share. -/

namespace Sys2Proof.Machine

/-! ### Shared by both engines -/

/-- `ctx.ring[i]`. -/
def ringGet (ring : List Word) (i : Nat) : Word := ring.getD i 0

/-- `ctx.ring[i] <- w`. -/
def ringSet (ring : List Word) (i : Nat) (w : Word) : List Word := ring.set i w

/-- `n` times one operation. -/
def repeated {α : Type} (f : α → α) : Nat → α → α
  | 0, a => a
  | n + 1, a => repeated f n (f a)

/-- The loop of R158 and R180: `n` words from address `a`; each is read, XORed with the next keystream word and written
back before the next is read (R58). -/
def transformWords (next : Context → Word × Context) : Nat → Nat → Memory → Context → Memory × Context
  | 0, _, m, c => (m, c)
  | n + 1, a, m, c =>
    let drawn := next c
    transformWords next n (a + 4) (m.writeWord a (m.readWord a ^^^ drawn.1)) drawn.2

/-! ### Key setup (R150-R155) -/

/-- The running values of the ring recurrence (R150). -/
structure PcFill where
  a : Word
  b : Word
  ring : List Word
  deriving DecidableEq, Repr

/-- One step of R150: the store, then `b <- a - b`, then `a <- ring[idx]`, which is the old `b`. -/
def pcRingStep (st : PcFill) (i : Nat) : PcFill :=
  { a := st.b, b := st.a - st.b, ring := ringSet st.ring (pcStride * i % pcLiveWords) st.b }

/-- `pcRingInit(seed)` (R150). Every slot is written before it is read (R151, R152), so the words the ring holds
before are immaterial (log 13). -/
def pcRingInit (seed : Word) : List Word :=
  ((List.range pcLiveWords).foldl pcRingStep { a := seed, b := seed, ring := List.replicate pcRingWords 0 }).ring

/-- Pass 1 of the mix at `p` (R153). -/
def pcMixHigh (ring : List Word) (p : Nat) : List Word := ringSet ring p (ringGet ring p - ringGet ring (p + pcLagHi))

/-- Pass 2 of the mix at `p` (R153). -/
def pcMixLow (ring : List Word) (p : Nat) : List Word := ringSet ring p (ringGet ring p - ringGet ring (p - pcLagLo))

/-- `pcMix()` (R153, R154): both passes in place, in increasing `p`: 1..24, then 25..55. -/
def pcMix (ring : List Word) : List Word :=
  (List.range' (pcLagLo + 1) (pcLiveWords - pcLagLo)).foldl pcMixLow ((List.range' 1 pcLagLo).foldl pcMixHigh ring)

/-- The ring after `pcCreateKeys(seed)` (R155). -/
def pcKeyedRing (slot55 seed : Word) : List Word :=
  repeated pcMix pcInitMixes (ringSet (pcRingInit seed) pcLiveWords slot55)

/-- `pcCreateKeys(seed)` on a context (R155), which becomes a PC context (R191, R193). -/
def pcCreateKeys (cfg : Config) (seed : Word) (c : Context) : Context :=
  { c with variant := .pc, pcRing := pcKeyedRing cfg.pcSlot55Init seed, cursor := pcCursorEnd }

/-! ### Word generator (R156) -/

/-- The mix that `pcNextWord` runs at cursor 55, with its cursor (R156). -/
def pcRefill (c : Context) : Context :=
  if c.cursor = pcCursorEnd then { c with pcRing := pcMix c.pcRing, cursor := 1 } else c

/-- `pcNextWord()` (R156). -/
def pcNextWord (c : Context) : Word × Context :=
  let c := pcRefill c
  (ringGet c.pcRing c.cursor, { c with cursor := c.cursor + 1 })

/-- `pcTransform(buf)` (R158). -/
def pcTransform (buf : Buffer) (m : Memory) (c : Context) : Memory × Context :=
  transformWords pcNextWord (buf.len / 4) buf.base m c

end Sys2Proof.Machine
end

