-- ==== Sys2Proof/Machine/GcCipher.lean ====
section
/-! DEFINITION. The GameCube keystream engine (43_cipher_gc.md R170-R180). -/

namespace Sys2Proof.Machine

/-! ### Key setup (R170-R177) -/

/-- The LCG state and the accumulator of R170. -/
structure GcSeed where
  s : Word
  bk : Word
  deriving DecidableEq, Repr

/-- One round of R170: `s <- s * GC_MULT + GC_INC`, then bit 31 of `bk` from bit 31 of `s`. -/
def gcRound (g : GcSeed) : GcSeed :=
  let s := g.s * gcMult + gcInc
  { s := s, bk := (g.bk >>> 1) ||| (s &&& 0x80000000) }

/-- The base words of R170: `n` words from the state `g`, which runs on from word to word. -/
def gcBaseWordsFrom : Nat → GcSeed → List Word
  | 0, _ => []
  | n + 1, g =>
    let g' := repeated gcRound gcRounds g
    g'.bk :: gcBaseWordsFrom n g'

/-- `gcBaseWords(seed)` (R170). -/
def gcBaseWords (seed : Word) : List Word := gcBaseWordsFrom gcBaseWordCount { s := seed, bk := 0 }

/-- The overwrite of the 17th word (R171). -/
def gcOverwrite (word : List Word) : List Word :=
  ringSet word (gcBaseWordCount - 1)
    ((ringGet word 0 >>> 9) ^^^ (ringGet word (gcBaseWordCount - 1) <<< 23) ^^^ ringGet word (gcBaseWordCount - 2))

/-- One word of the fill (R172), with the plain term `word[i - tap]`. -/
def gcFillStep (tap : Nat) (word : List Word) (i : Nat) : List Word :=
  ringSet word i
    (ringGet word (i - tap) ^^^ ((ringGet word (i - gcBaseWordCount) <<< 23) &&& 0xFF800000)
      ^^^ ((ringGet word (i - (gcBaseWordCount - 1)) >>> 9) &&& 0x007FFFFF))

/-- The fill `word[17..520]`, in increasing `i` (R172). -/
def gcFill (tap : Nat) (word : List Word) : List Word :=
  (List.range' gcBaseWordCount (gcRingWords - gcBaseWordCount)).foldl (gcFillStep tap) word

/-- One slot of the mix (R173). -/
def gcMixStep (ring : List Word) (i : Nat) : List Word :=
  ringSet ring i (ringGet ring i ^^^ ringGet ring ((i + gcLag) % gcRingWords))

/-- The ring part of `gcMix()` (R173, R174): one in-place pass over all 521 slots. -/
def gcMixRing (ring : List Word) : List Word := (List.range gcRingWords).foldl gcMixStep ring

/-- `gcMix()` (R173, R175): the ring pass, then `ctx.cursor <- 0`. -/
def gcMix (c : Context) : Context := { c with gcRing := gcMixRing c.gcRing, cursor := 0 }

/-- `word[0..520]` before the mixes (R170-R172). -/
def gcInitRing (tap : Nat) (seed : Word) : List Word :=
  gcFill tap (gcOverwrite (gcBaseWords seed ++ List.replicate (gcRingWords - gcBaseWordCount) 0))

/-- `gcCreateKeys(seed)` on a context (R176, R177), which becomes a GC context (R191, R193). -/
def gcCreateKeys (cfg : Config) (seed : Word) (c : Context) : Context :=
  { repeated gcMix gcInitMixes { c with variant := .gc, gcRing := gcInitRing cfg.gcFillTap seed, seed0 := seed } with
    cursor := gcInitCursor }

/-! ### Word generator (R178) -/

/-- The cursor's advance in `gcNextWord`, with the mix at ring end (R178). -/
def gcAdvance (c : Context) : Context :=
  if c.cursor + 1 = gcRingWords then gcMix c else { c with cursor := c.cursor + 1 }

/-- `gcNextWord()` (R178). -/
def gcNextWord (c : Context) : Word × Context :=
  let c := gcAdvance c
  (ringGet c.gcRing c.cursor, c)

/-- `gcTransform(buf)` (R180). -/
def gcTransform (buf : Buffer) (m : Memory) (c : Context) : Memory × Context :=
  transformWords gcNextWord (buf.len / 4) buf.base m c

end Sys2Proof.Machine
end

