-- ==== Sys2Proof/Machine/Facade.lean ====
section
/-! DEFINITION. The cipher commands (44_facade.md R190-R196). -/

namespace Sys2Proof.Machine

/-- R190, check 2, for the cipher commands other than `CREATE_KEYS`: after the slot check, `CW.VAR` must be 0. -/
def onCipherSlot (var : Byte) (slot : Half) (s : State) (f : Nat → Context → Result) : Result :=
  onSlot slot s fun k ctx => if var ≠ 0 then .refused .reservedField else f k ctx

/-- The variant tags of R86. -/
inductive VariantTag where
  /-- `0x00`. -/
  | pc
  /-- `0x01`. -/
  | gc
  /-- `0x02`, refused (R192). -/
  | blueBurst
  /-- Any other value. -/
  | unknown
  deriving DecidableEq, Repr

/-- `CW.VAR` as a variant tag (R86). -/
def variantTag (var : Byte) : VariantTag :=
  if var = 0x00 then .pc else if var = 0x01 then .gc else if var = 0x02 then .blueBurst else .unknown

/-- `CIPHER.CREATE_KEYS` (R191-R193). -/
def execCipherCreateKeys (var : Byte) (slot : Half) (seed : Word) (s : State) : Result :=
  onSlot slot s fun k ctx =>
    match variantTag var with
    | .pc => .next ((s.withSlot k (pcCreateKeys s.cfg seed ctx)).finishOk 0)
    | .gc => .next ((s.withSlot k (gcCreateKeys s.cfg seed ctx)).finishOk 0)
    | .blueBurst => .refused .unsupported
    | .unknown => .next (s.finishError .unknownCipherVariant)

/-- What a transform leaves: the buffer, the context (R194). -/
def State.afterCrypt (s : State) (k : Nat) (done : Memory × Context) : State :=
  ((s.withMem done.1).withSlot k done.2).finishOk 0

/-- `CIPHER.CRYPT` (R194). `flags[0]`, `isEncrypting`, is ignored (I18). -/
def execCipherCrypt (var : Byte) (slot : Half) (bufBase bufLen flags : Word) (s : State) : Result :=
  onCipherSlot var slot s fun k ctx =>
    let buf := bufferOf bufBase bufLen
    if flags >>> 1 ≠ 0 then .refused .reservedField
    else if ¬ buf.valid s.cfg then .refused .badBuffer
    else if buf.len % 4 ≠ 0 then .refused .badLength
    else match ctx.variant with
      | .none => .next (s.finishError .contextNotKeyed)
      | .pc => .next (s.afterCrypt k (pcTransform buf s.mem ctx))
      | .gc => .next (s.afterCrypt k (gcTransform buf s.mem ctx))

/-- What a draw leaves: the context, `RESULT <- w` (R195). -/
def State.afterDraw (s : State) (k : Nat) (drawn : Word × Context) : State :=
  (s.withSlot k drawn.2).finishOk drawn.1

/-- `CIPHER.NEXT_WORD` (R195). -/
def execCipherNextWord (var : Byte) (slot : Half) (s : State) : Result :=
  onCipherSlot var slot s fun k ctx =>
    match ctx.variant with
    | .none => .next (s.finishError .contextNotKeyed)
    | .pc => .next (s.afterDraw k (pcNextWord ctx))
    | .gc => .next (s.afterDraw k (gcNextWord ctx))

/-- `CIPHER.RELEASE` (R196): the variant becomes `NONE`; ring words and cursor keep their values. -/
def execCipherRelease (var : Byte) (slot : Half) (s : State) : Result :=
  onCipherSlot var slot s fun k ctx => .next ((s.withSlot k { ctx with variant := .none }).finishOk 0)

end Sys2Proof.Machine
end

