-- ==== Sys2Proof/Machine/PrsCompress.lean ====
section
/-! DEFINITION. The PRS compressor (40_prs_compressor.md): search, emission, and the command. -/

namespace Sys2Proof.Machine

/-! ### Search (R101-R104) -/

/-- The length of the longest common part of two byte sequences, at most `cap`. -/
def commonLength : Nat → List Byte → List Byte → Nat
  | cap + 1, a :: as, b :: bs => if a = b then commonLength cap as bs + 1 else 0
  | 0, _, _ => 0
  | _ + 1, [], _ => 0
  | _ + 1, _ :: _, [] => 0

/-- `matchLen(x, y)` (R102): capped at `PRS_MAX_MATCH`, by `y + L <= x` and by the end of the source. -/
def matchLen (src : List Byte) (x y : Nat) : Nat :=
  commonLength (min prsMaxMatch (x - y)) (src.drop y) (src.drop x)

/-- How many candidates `y` satisfy R101: `y >= 1`, `y >= x - PRS_WINDOW` and `y <= x - PRS_MIN_LOOKBACK`. -/
def candidateCount (window x : Nat) : Nat := x + 1 - prsMinLookback - max 1 (x - window)

/-- One candidate of `bestMatch` (R103): strictly greater length replaces the best; the best is (length, distance). -/
def considerMatch (src : List Byte) (x : Nat) (best : Nat × Nat) (y : Nat) : Nat × Nat :=
  let l := matchLen src x y
  if best.1 < l then (l, x - y) else best

/-- `bestMatch(x)` (R103): nearest candidate first, `y` from `x - 3` downward. -/
def bestMatch (window : Nat) (src : List Byte) (x : Nat) : Nat × Nat :=
  (List.range (candidateCount window x)).foldl (fun best k => considerMatch src x best (x - prsMinLookback - k)) (0, 0)

/-! ### Emission (R105-R108) -/

/-- The compressor at the start of every compress command (R22): the first control byte is open at offset 0. -/
def Emitter.start : Emitter := { cc := { x := 0, dstPos := 1, cbPos := 0, cbVal := 0, cbBits := 0 }, out := [0] }

/-- The open control byte is full: it is written, and a new one opens at the current position (R106, R73). -/
def Emitter.openControl (e : Emitter) : Emitter :=
  { cc := { e.cc with cbPos := e.cc.dstPos, dstPos := e.cc.dstPos + 1, cbVal := 0, cbBits := 0 },
    out := e.out.set e.cc.cbPos e.cc.cbVal ++ [0] }

/-- One control bit into the open control byte (R106, R72). -/
def Emitter.insertBit (e : Emitter) (b : Bool) : Emitter :=
  { e with cc := { e.cc with
      cbVal := (e.cc.cbVal >>> 1) ||| ((BitVec.ofBool b).setWidth 8 <<< 7),
      cbBits := e.cc.cbBits + 1 } }

/-- `putBit(b)` (R106). -/
def Emitter.putBit (e : Emitter) (b : Bool) : Emitter :=
  if e.cc.cbBits = 8 then e.openControl.insertBit b else e.insertBit b

/-- `putByte(v)` (R106). -/
def Emitter.putByte (e : Emitter) (v : Byte) : Emitter :=
  { cc := { e.cc with dstPos := e.cc.dstPos + 1 }, out := e.out ++ [v] }

/-- `emitLIT` (R107). -/
def Emitter.emitLit (e : Emitter) (b : Byte) : Emitter := (e.putBit true).putByte b

/-- `emitSCOPY` (R107). -/
def Emitter.emitScopy (e : Emitter) (dist : Int) (len : Nat) : Emitter :=
  ((((e.putBit false).putBit false).putBit ((len - 2).testBit 1)).putBit ((len - 2).testBit 0)).putByte
    (shortDistanceByte dist)

/-- `emitLCOPYH` (R107). -/
def Emitter.emitLcopyh (e : Emitter) (dist : Int) (len : Nat) : Emitter :=
  (((e.putBit false).putBit true).putByte (headerByte0 dist len)).putByte (longByte1 dist)

/-- `emitLCOPYT` (R107). -/
def Emitter.emitLcopyt (e : Emitter) (dist : Int) (len : Nat) : Emitter :=
  ((((e.putBit false).putBit true).putByte (trailerByte0 dist)).putByte (longByte1 dist)).putByte (trailerByte2 len)

/-- R105: the short form is eligible. -/
def shortEligible (dist : Int) (len : Nat) : Bool := decide (-(prsShortMaxDist : Int) - 1 < dist) && decide (len ≤ prsShortMaxLen)

/-- `emitCOPY` (R105, R107). -/
def Emitter.emitCopy (e : Emitter) (dist : Int) (len : Nat) : Emitter :=
  if shortEligible dist len then e.emitScopy dist len
  else if len ≤ prsHdrMaxLen then e.emitLcopyh dist len
  else e.emitLcopyt dist len

/-- The form that `emitCopy` writes for distance `-d` and length `len` (R105), as an instruction. R88 defines `COPY -d, L`
only for the pairs of `copyDefined` (Assembler.lean). DESIGN CHOICE (log 17): the function is total, and outside those pairs
its fields are the low bits of what R78 gives, with no meaning from the spec: `d = 256`, `len = 2` gives an `LCOPYH` of length
code 0, and a length over 256 wraps in `B2`. For `d = 8192` and `len >= 10`, which R88 admits and R79 does not, it gives the
reserved `V = 0`. The compressor never asks for any of these. -/
def copyForm (d len : Nat) : Instr :=
  if shortEligible (-(d : Int)) len then .scopy (BitVec.ofNat 2 (len - 2)) (shortDistanceByte (-(d : Int)))
  else if len ≤ prsHdrMaxLen then .lcopyh (BitVec.ofNat 3 (len - 2)) (BitVec.ofInt 13 (-(d : Int)))
  else .lcopyt (BitVec.ofInt 13 (-(d : Int))) (trailerByte2 len)

/-- `cc.x <- x` (R104). -/
def Emitter.advanceTo (e : Emitter) (x : Nat) : Emitter := { e with cc := { e.cc with x := x } }

/-- `step(x)` (R104): a literal, or a copy of the best match. -/
def compressStep (window : Nat) (src : List Byte) (e : Emitter) : Emitter :=
  let x := e.cc.x
  let best := bestMatch window src x
  if best.1 < prsMinMatch then (e.emitLit (src.getD x 0)).advanceTo (x + 1)
  else (e.emitCopy (-(best.2 : Int)) best.1).advanceTo (x + best.1)

/-- `while cc.x < srcLen: step(cc.x)` (R110). `srcLen` rounds always suffice: each advances `x` (R239). -/
def compressLoop (window : Nat) (src : List Byte) : Nat → Emitter → Emitter
  | 0, e => e
  | k + 1, e => if e.cc.x < src.length then compressLoop window src k (compressStep window src e) else e

/-- The last control byte is written, its unused high bits zero (R108, R74). -/
def Emitter.closeControl (e : Emitter) : Emitter :=
  { e with out := e.out.set e.cc.cbPos (e.cc.cbVal >>> (8 - e.cc.cbBits)) }

/-- `finish()` (R108): the `END` token, the last control byte closed. -/
def Emitter.finish (e : Emitter) : Emitter :=
  ((((e.putBit false).putBit true).closeControl).putByte 0x00).putByte 0x00

/-- The whole stream for a source (R100, R110): a function of the source alone. -/
def compressBytes (window : Nat) (src : List Byte) : List Byte :=
  (compressLoop window src src.length Emitter.start).finish.out

/-! ### The command (R110) -/

/-- The last lines of R110: the stream is checked against `dstCap`, then written. -/
def deliver (dst : Buffer) (e : Emitter) (s : State) : State :=
  if dst.len < e.cc.dstPos then s.prsError (some dst) .destinationTooSmall
  else (s.withMem (s.mem.writeBytes dst.base (e.out.take e.cc.dstPos))).prsOk e.cc.dstPos

/-- One step of a compression in progress (R104), or its end (R108, R110). -/
def compressTick (src dst : Buffer) (e : Emitter) (s : State) : Result :=
  if ¬ src.valid s.cfg ∨ ¬ dst.valid s.cfg then .fault .addressOutsideSpace
  else if e.cc.x < src.len then
    .next (s.withJob (some (.compress src dst
      (compressStep s.cfg.prsWindow (s.mem.readBytes src.base src.len) e))))
  else .next (deliver dst e.finish s)

/-- The body of R110, after its refusals: the whole compression as one step (R8). -/
def runCompress (src dst : Buffer) (s : State) : State :=
  deliver dst (compressLoop s.cfg.prsWindow (s.mem.readBytes src.base src.len) src.len Emitter.start).finish s

/-- `PRS.COMPRESS` (R110). -/
def execPrsCompress (var : Byte) (slot : Half) (srcBase srcLen dstBase dstCap : Word) (s : State) : Result :=
  onPrsFields var slot <|
    let src := bufferOf srcBase srcLen
    let dst := bufferOf dstBase dstCap
    if ¬ src.valid s.cfg ∨ ¬ dst.valid s.cfg then .refused .badBuffer
    else if src.overlaps dst then .refused .overlap
    else .next (runCompress src dst s)

end Sys2Proof.Machine
end

