-- ==== Sys2Proof/Machine/PrsTokens.lean ====
section
/-! DEFINITION. The five PRS tokens (41_prs_decompressor.md R123-R133), each run on the decode walk in progress, after
its control bits and data bytes have been read. -/

namespace Sys2Proof.Machine

/-- Both buffers of the walk are valid (R50). -/
def Walk.valid (cfg : Config) (w : Walk) : Bool := w.src.valid cfg && (w.dst.elim true fun d => d.valid cfg)

/-- A token acts on the walk in progress (R27, R122; log 14, log 15). -/
def onWalk (s : State) (f : Walk → Result) : Result :=
  match s.job with
  | some (.decode w) => if w.valid s.cfg then f w else .fault .addressOutsideSpace
  | some (.compress _ _ _) => .refused .noDecodeInProgress
  | none => .refused .noDecodeInProgress

/-- R133: `n` more bytes fit the destination. The size probe has no capacity (R135). -/
def Walk.hasRoom (w : Walk) (n : Nat) : Bool := w.dst.elim true fun d => decide (w.dc.dstPos + n ≤ d.len)

/-- The walk with `n` more bytes produced. -/
def Walk.produced (w : Walk) (n : Nat) : Walk := { w with dc := { w.dc with dstPos := w.dc.dstPos + n } }

/-- `if writing: MemWrite(dst, dc.dstPos, 1, b)`, then `dc.dstPos <- dc.dstPos + 1` (R123). -/
def State.putOutput (s : State) (w : Walk) (b : Byte) : State :=
  (match w.dst with
    | none => s
    | some d => s.withMem (s.mem.write (d.base + w.dc.dstPos) b)).withJob (some (.decode (w.produced 1)))

/-- The loop of `copy` (R130, R132): `len` bytes from `dstPos + distance`, byte by byte in increasing order. -/
def State.copyOutput (s : State) (w : Walk) (distance : Int) (len : Nat) : State :=
  (match w.dst with
    | none => s
    | some d => s.withMem (s.mem.copyBytes (d.base + ((w.dc.dstPos : Int) + distance).toNat) (d.base + w.dc.dstPos) len)).withJob
      (some (.decode (w.produced len)))

/-- `copy(distance, length)` (R130): a reference before the start (R131), then the capacity (R133), then the copy. -/
def copyToken (distance : Int) (len : Nat) (s : State) : Result :=
  onWalk s fun w =>
    if (w.dc.dstPos : Int) + distance < 0 then .next (s.prsError w.dst .malformedCompressedStream)
    else if w.hasRoom len then .next (s.copyOutput w distance len)
    else .next (s.prsError w.dst .destinationTooSmall)

/-- `LIT` (R123). -/
def execLit (b : Byte) (s : State) : Result :=
  onWalk s fun w =>
    if w.hasRoom 1 then .next (s.putOutput w b) else .next (s.prsError w.dst .destinationTooSmall)

/-- `SCOPY` (R124). -/
def execScopy (l : BitVec 2) (d8 : Byte) (s : State) : Result := copyToken (shortDistance d8) (shortLength l) s

/-- `LCOPYH` (R125). -/
def execLcopyh (c : BitVec 3) (q : BitVec 13) (s : State) : Result := copyToken (longDistance q) (headerLength c) s

/-- `LCOPYT` (R126). -/
def execLcopyt (q : BitVec 13) (b2 : Byte) (s : State) : Result := copyToken (longDistance q) (trailerLength b2) s

/-- `END` (R127): `return dc.dstPos`, and the command ends (R140, R141). -/
def execEndStream (s : State) : Result := onWalk s fun w => .next (s.prsOk w.dc.dstPos)

end Sys2Proof.Machine
end

