-- ==== Sys2Proof/Machine/PrsDecompress.lean ====
section
/-! DEFINITION. The decode loop (41_prs_decompressor.md R122, R134, R135) and the commands that run it (R140, R141). -/

namespace Sys2Proof.Machine

/-- The walk's source as the decoder reads it: byte `i` for `i < srcLen` (R121). -/
def Walk.source (m : Memory) (w : Walk) : Nat → Option Byte :=
  fun i => if i < w.src.len then some (m.read (w.src.base + i)) else none

/-- What the next token of a walk is. -/
inductive TokenFetch where
  /-- A token, and the state with the cursor after its last bit and byte. -/
  | token (i : Instr) (s : State)
  /-- The source is exhausted (R121). -/
  | exhausted
  deriving DecidableEq, Repr

/-- Read one token at the walk's cursor (R120-R122). -/
def fetchToken (w : Walk) (s : State) : TokenFetch :=
  match decodeToken (w.source s.mem) w.dc with
  | .ok (i, dc) => .token i (s.withJob (some (.decode { w with dc := dc })))
  | .error _ => .exhausted

/-- The meaning of a token (R122). A command is no token: the token decoder never gives one (log 15). -/
def runToken (i : Instr) (s : State) : Result :=
  match i with
  | .endStream => execEndStream s
  | .lcopyt q b2 => execLcopyt q b2 s
  | .lcopyh c q => execLcopyh c q s
  | .scopy l d8 => execScopy l d8 s
  | .lit b => execLit b s
  | .prsCompress _ _ _ _ _ _ => .refused .noDecodeInProgress
  | .prsDecompress _ _ _ _ _ _ => .refused .noDecodeInProgress
  | .prsSize _ _ _ _ => .refused .noDecodeInProgress
  | .cipherCreateKeys _ _ _ => .refused .noDecodeInProgress
  | .cipherCrypt _ _ _ _ _ => .refused .noDecodeInProgress
  | .cipherNextWord _ _ => .refused .noDecodeInProgress
  | .cipherRelease _ _ => .refused .noDecodeInProgress

/-- One token of the walk with the meanings `run` gives tokens: fetch it, then run it. Exhaustion ends the command with
`MalformedCompressedStream` (R121). -/
def walkStepWith (run : Instr → State → Result) (s : State) : Result :=
  onWalk s fun w =>
    match fetchToken w s with
    | .token i s' => run i s'
    | .exhausted => .next (s.prsError w.dst .malformedCompressedStream)

/-- One round of `decodeLoop` (R122). -/
def walkStep (s : State) : Result := walkStepWith runToken s

/-- `decodeLoop` (R122), at most `fuel` tokens: until `END` or an error ends the command. -/
def runWalk : Nat → State → Result
  | 0, _ => .fault .walkUnfinished
  | fuel + 1, s =>
    match walkStep s with
    | .next s' => if s'.job = none then .next s' else runWalk fuel s'
    | .fault r => .fault r
    | .refused r => .refused r

/-- The walk at the start of a command (R25). -/
def Walk.start (src : Buffer) (dst : Option Buffer) : Walk := { src := src, dst := dst, dc := DecodeCursor.start }

/-- The body of R140 and R141, after their refusals: the whole walk as one step (R8). `srcLen + 1` tokens always suffice
(R134). -/
def runDecode (src : Buffer) (dst : Option Buffer) (s : State) : Result :=
  runWalk (src.len + 1) (s.withJob (some (.decode (Walk.start src dst))))

/-- `PRS.DECOMPRESS` (R140). -/
def execPrsDecompress (var : Byte) (slot : Half) (srcBase srcLen dstBase dstCap : Word) (s : State) : Result :=
  onPrsFields var slot <|
    let src := bufferOf srcBase srcLen
    let dst := bufferOf dstBase dstCap
    if ¬ src.valid s.cfg ∨ ¬ dst.valid s.cfg then .refused .badBuffer
    else if src.overlaps dst then .refused .overlap
    else runDecode src (some dst) s

/-- `PRS.SIZE` (R141). -/
def execPrsSize (var : Byte) (slot : Half) (srcBase srcLen : Word) (s : State) : Result :=
  onPrsFields var slot <|
    let src := bufferOf srcBase srcLen
    if ¬ src.valid s.cfg then .refused .badBuffer
    else runDecode src none s

end Sys2Proof.Machine
end

