-- ==== Sys2Proof/Machine/Dispatch.lean ====
section
/-! DEFINITION. One arm per instruction. -/

namespace Sys2Proof.Machine

def exec (i : Instr) (s : State) : Host.Outcome State Fault Refusal :=
  match i with
  | .endStream => Sys2Proof.Machine.execEndStream s
  | .lcopyt q b2 => Sys2Proof.Machine.execLcopyt q b2 s
  | .lcopyh c q => Sys2Proof.Machine.execLcopyh c q s
  | .scopy l d8 => Sys2Proof.Machine.execScopy l d8 s
  | .lit b => Sys2Proof.Machine.execLit b s
  | .prsCompress var slot srcBase srcLen dstBase dstCap => Sys2Proof.Machine.execPrsCompress var slot srcBase srcLen dstBase dstCap s
  | .prsDecompress var slot srcBase srcLen dstBase dstCap => Sys2Proof.Machine.execPrsDecompress var slot srcBase srcLen dstBase dstCap s
  | .prsSize var slot srcBase srcLen => Sys2Proof.Machine.execPrsSize var slot srcBase srcLen s
  | .cipherCreateKeys var slot seed => Sys2Proof.Machine.execCipherCreateKeys var slot seed s
  | .cipherCrypt var slot bufBase bufLen flags => Sys2Proof.Machine.execCipherCrypt var slot bufBase bufLen flags s
  | .cipherNextWord var slot => Sys2Proof.Machine.execCipherNextWord var slot s
  | .cipherRelease var slot => Sys2Proof.Machine.execCipherRelease var slot s

end Sys2Proof.Machine
end

