-- ==== Sys2Proof/Machine/Fetch.lean ====
section
/-! DEFINITION. Where the next instruction comes from: the words the host has issued (30_encoding.md R84, R85), or the
stream of the walk in progress (PrsDecompress.lean). There is no instruction memory (R63, R221). -/

namespace Sys2Proof.Machine

/-- What the command port holds (log 5). -/
inductive CommandFetch where
  /-- No command, or one whose operand words have not all been issued: the block is idle (R213). -/
  | idle
  /-- A command, and the state with its words taken from the port. -/
  | command (i : Instr) (s : State)
  /-- `CW.OP` is not in R85's table. -/
  | unassigned
  deriving DecidableEq, Repr

/-- Take the next command from the port (R84). -/
def fetchCommand (s : State) : CommandFetch :=
  match decodeCommand s.port with
  | .ok (i, rest) => .command i (s.withPort rest)
  | .error (.unassignedOp _) => .unassigned
  | .error (.missingOperands _) => .idle
  | .error .noCommandWord => .idle
  | .error (.exhausted _) => .idle

/-- Run the next issued command with the meanings `run`, or stay idle. -/
def commandStepWith (run : Instr → State → Result) (s : State) : Result :=
  match fetchCommand s with
  | .idle => .next s
  | .command i s' => run i s'
  | .unassigned => .refused .unassignedOp

/-- The `dc.dstPos` of the walk that `layTableWord` makes: so many bytes that every back-reference a token can name is
within the output (log 7). -/
def laidOutputLength : Nat := 8192

/-- The table's instruction stored where the next step fetches it (log 7). A command's words stand first in the port.
A token stands at address 0 as the source of a size-probe walk. -/
def layTableWord (s : State) (nbits w : Nat) : State :=
  match tableWord nbits w with
  | .words ws => (s.withJob none).withPort (ws ++ s.port)
  | .stream bytes =>
    (s.withMem (s.mem.writeBytes 0 bytes)).withJob (some (.decode
      { src := { base := 0, len := bytes.length }, dst := none,
        dc := { DecodeCursor.start with dstPos := laidOutputLength } }))

end Sys2Proof.Machine
end

