-- ==== Sys2Proof/Machine/Step.lean ====
section
/-! DEFINITION. One step: the next token of a walk in progress, the next step of a compression in progress, or the next
command the host has issued, from its start to its end (R8). -/

namespace Sys2Proof.Machine

/-- One step of the block. -/
def step (s : State) : Host.Outcome State Fault Refusal :=
  match s.job with
  | some (.decode _) => walkStepWith exec s
  | some (.compress src dst e) => compressTick src dst e s
  | none => commandStepWith exec s

/-- `s` with the table's instruction stored where `step` fetches its next instruction (log 7). -/
def State.withFetchWord (s : State) (nbits w : Nat) : State := layTableWord s nbits w

end Sys2Proof.Machine
end

