-- ==== Sys2Proof/Machine/Assembler.lean ====
section
/-! DEFINITION. The textual syntax of the spec's examples (30_encoding.md R87) and the pseudo-token `COPY` (R88). No step
reads them. -/

namespace Sys2Proof.Machine

/-- One hexadecimal digit, in capitals as the spec writes them. -/
def hexDigit (n : Nat) : Char := "0123456789ABCDEF".toList.getD (n % 16) '0'

/-- `n` hexadecimal digits of `v`, after `0x` (R10). -/
def hexText (n v : Nat) : String := "0x" ++ String.ofList ((List.range n).map fun k => hexDigit (v / 16 ^ (n - 1 - k)))

/-- `-d, L`: the distance and the length, both in decimal (R87). -/
def copyText (distance : Int) (len : Nat) : String := toString distance ++ ", " ++ toString len

/-- How an operand word is written. -/
inductive OperandText where
  /-- A buffer's base. -/
  | address (w : Word)
  /-- A length, a capacity, or `flags`. -/
  | number (w : Word)
  deriving DecidableEq, Repr

/-- An operand word as text. R87 states no number base for it: DESIGN CHOICE (log 18), an address in 8 hexadecimal digits, any
other word in decimal. -/
def OperandText.text : OperandText → String
  | .address w => hexText 8 w.toNat
  | .number w => toString w.toNat

/-- A command's operands in order (R85, R87). -/
def operandsText (ws : List OperandText) : String := ", ".intercalate (ws.map OperandText.text)

/-- A variant tag as text: `PC` is R87's own, `GC` and the two hexadecimal digits of every other tag (`0x02` for BlueBurst) are
those of 95_test_vectors.md FAC-2, FAC-3 and FAC-10. R87 itself gives no others (DESIGN CHOICE, log 18). -/
def variantText (var : Byte) : String :=
  if var = 0x00 then "PC" else if var = 0x01 then "GC" else hexText 2 var.toNat

/-- `slot=k`. -/
def slotText (slot : Half) : String := "slot=" ++ toString slot.toNat

/-- One instruction as text (R87). -/
def syntaxText : Instr → String
  | .endStream => "END"
  | .lcopyt q b2 => "LCOPYT " ++ copyText (longDistance q) (trailerLength b2)
  | .lcopyh c q => "LCOPYH " ++ copyText (longDistance q) (headerLength c)
  | .scopy l d8 => "SCOPY " ++ copyText (shortDistance d8) (shortLength l)
  | .lit b => "LIT " ++ hexText 2 b.toNat
  | .prsCompress _ _ sb sl db dc => "PRS.COMPRESS " ++ operandsText [.address sb, .number sl, .address db, .number dc]
  | .prsDecompress _ _ sb sl db dc => "PRS.DECOMPRESS " ++ operandsText [.address sb, .number sl, .address db, .number dc]
  | .prsSize _ _ sb sl => "PRS.SIZE " ++ operandsText [.address sb, .number sl]
  | .cipherCreateKeys var slot seed =>
      "CIPHER.CREATE_KEYS " ++ slotText slot ++ ", var=" ++ variantText var ++ ", seed=" ++ hexText 8 seed.toNat
  | .cipherCrypt _ slot bb bl flags =>
      "CIPHER.CRYPT " ++ slotText slot ++ ", " ++ operandsText [.address bb, .number bl, .number flags]
  | .cipherNextWord _ slot => "CIPHER.NEXT_WORD " ++ slotText slot
  | .cipherRelease _ slot => "CIPHER.RELEASE " ++ slotText slot

/-! ### The pseudo-token (R88) -/

/-- The pairs for which `COPY -d, L` is defined (R88). -/
abbrev copyDefined (d len : Nat) : Prop :=
  1 ≤ d ∧ d ≤ 8192 ∧ 3 ≤ len ∧ len ≤ 256 ∨ 1 ≤ d ∧ d ≤ 255 ∧ len = 2

/-- `COPY -d, L` (R88): the form the compressor would choose; no token outside the pairs R88 gives. -/
def copyPseudoToken (d len : Nat) : Option Instr := if copyDefined d len then some (copyForm d len) else none

end Sys2Proof.Machine
end

