-- ==== Sys2Proof/Machine/HostPort.lean ====
section
/-! DEFINITION. What the host can do to the block between commands (10_state.md R40, R42; 20_memory.md R61;
30_encoding.md R84; 70_reset_and_hazards.md R220, R232). -/

namespace Sys2Proof.Machine

/-- The host issues words: a command word and its operand words (R84). -/
def hostIssue (ws : List Word) (s : State) : State := s.withPort (s.port ++ ws)

/-- The host goes on after a refusal, which has changed nothing (R201): it withdraws the words not yet taken, the refused
command's first among them (log 10). -/
def hostWithdraw (s : State) : State := s.withPort []

/-- The host reads `STATUS` (R40). -/
def hostReadStatus (s : State) : Byte := s.status

/-- The host reads `RESULT` (R40). -/
def hostReadResult (s : State) : Word := s.result

/-- A host write to `STATUS` has no meaning and is refused (R40). -/
def hostWriteStatus (_value : Byte) (_s : State) : Result := .refused .readOnlyRegister

/-- A host write to `RESULT` has no meaning and is refused (R40). -/
def hostWriteResult (_value : Word) (_s : State) : Result := .refused .readOnlyRegister

/-- The host reads a byte of `HostMem`, which it owns (R42, R50). Outside the address space there is none. -/
def hostLoad (a : Nat) (s : State) : Option Byte := if a < 2 ^ s.cfg.addrBits then some (s.mem.read a) else none

/-- The host writes a byte of `HostMem`, which it owns (R42, R50). -/
def hostStore (a : Nat) (v : Byte) (s : State) : Result :=
  if a < 2 ^ s.cfg.addrBits then .next (s.withMem (s.mem.write a v)) else .fault .addressOutsideSpace

/-- The host asserts reset between commands (R220): every slot, `STATUS` and `RESULT` as R43 says; `HostMem` and the
configuration keep their values. The words not yet taken are dropped (log 5). -/
def hostReset (s : State) : State :=
  { s with slots := List.replicate s.slots.length Context.reset, status := 0, result := 0, job := none, port := [] }

end Sys2Proof.Machine
end

