-- ==== Sys2Proof/Safety.lean ====
section
/-! DEFINITION. The terms the statements use: the invariant of the state, the bytes a buffer covers, the keystream of a
context, and the payload that a PRS stream stands for as a function of the stream alone. -/

namespace Sys2Proof.Machine

/-! ### The invariant -/

/-- A context slot: rings of the spec's sizes, the cursor in the range its variant gives it (R32, R33). -/
abbrev Context.ok (c : Context) : Prop :=
  c.pcRing.length = pcRingWords ∧ c.gcRing.length = gcRingWords ∧
    (c.variant = .pc → 1 ≤ c.cursor ∧ c.cursor ≤ pcCursorEnd) ∧ (c.variant = .gc → c.cursor < gcRingWords)

/-- The compressor: R23, and the ranges of R21. -/
abbrev Emitter.ok (e : Emitter) : Prop :=
  e.cc.cbPos < e.cc.dstPos ∧ e.cc.cbBits ≤ 8 ∧ e.out.length = e.cc.dstPos

/-- The decode walk: the ranges of R24, and the output within its capacity (R133). -/
abbrev Walk.ok (w : Walk) : Prop :=
  w.dc.cbLeft ≤ 8 ∧ w.dc.srcPos ≤ w.src.len ∧ ∀ d ∈ w.dst, w.dc.dstPos ≤ d.len

/-- The command in progress: its buffers are valid (R50) and its cursor is in range. -/
abbrev Job.ok (cfg : Config) : Job → Prop
  | .compress src dst e => src.valid cfg = true ∧ dst.valid cfg = true ∧ e.cc.x ≤ src.len ∧ e.ok
  | .decode w => w.valid cfg = true ∧ w.ok

/-- What every step keeps: memory in canonical form, at least one slot (R6), every slot in range (R31-R33), `STATUS` one
of the codes of R200, the command in progress in range. -/
abbrev State.Inv (s : State) : Prop :=
  s.mem.wf ∧ 1 ≤ s.nCtx ∧ (∀ c ∈ s.slots, c.ok) ∧ s.status.toNat ≤ 4 ∧ ∀ j ∈ s.job, j.ok s.cfg

/-! ### What a step leaves alone -/

/-- Address `a` is one of the buffer's bytes (R50). -/
abbrev Buffer.covers (b : Buffer) (a : Nat) : Prop := b.base ≤ a ∧ a < b.stop

/-- Every byte outside `b` reads as before. -/
abbrev sameOutside (b : Buffer) (m m' : Memory) : Prop := ∀ a, ¬ b.covers a → m'.read a = m.read a

/-- The two states hold the same configuration, issued words and free-value count. -/
abbrev sameModelFields (s t : State) : Prop := t.cfg = s.cfg ∧ t.port = s.port ∧ t.freeCount = s.freeCount

/-- A command ended with the error of `STATUS` code `code` (R203): `RESULT` is 0, its cursor is dropped, every slot is as
before, and no byte outside its destination has changed; without a destination no byte has. -/
abbrev endsInError (code : Byte) (dst : Option Buffer) (s t : State) : Prop :=
  t.status = code ∧ t.result = 0 ∧ t.job = none ∧ t.slots = s.slots ∧ t.cfg = s.cfg ∧ t.port = s.port ∧
    (∀ d ∈ dst, sameOutside d s.mem t.mem) ∧ (dst = none → t.mem = s.mem ∧ t.freeCount = s.freeCount)

/-! ### What an instruction names -/

/-- Distance and length of a copy token, by the table of R77. -/
def copyOperands : Instr → Option (Int × Nat)
  | .endStream => none
  | .lcopyt q b2 => some ((q.toNat : Int) - 8192, b2.toNat + 1)
  | .lcopyh c q => some ((q.toNat : Int) - 8192, c.toNat + 2)
  | .scopy l d8 => some ((d8.toNat : Int) - 256, l.toNat + 2)
  | .lit _ => none
  | .prsCompress _ _ _ _ _ _ => none
  | .prsDecompress _ _ _ _ _ _ => none
  | .prsSize _ _ _ _ => none
  | .cipherCreateKeys _ _ _ => none
  | .cipherCrypt _ _ _ _ _ => none
  | .cipherNextWord _ _ => none
  | .cipherRelease _ _ => none

/-- The slot a cipher command names (R190); a PRS instruction names none. -/
def cipherSlot : Instr → Option Half
  | .endStream => none
  | .lcopyt _ _ => none
  | .lcopyh _ _ => none
  | .scopy _ _ => none
  | .lit _ => none
  | .prsCompress _ _ _ _ _ _ => none
  | .prsDecompress _ _ _ _ _ _ => none
  | .prsSize _ _ _ _ => none
  | .cipherCreateKeys _ slot _ => some slot
  | .cipherCrypt _ slot _ _ _ => some slot
  | .cipherNextWord _ slot => some slot
  | .cipherRelease _ slot => some slot

/-- The buffer a cipher command names (R53): `CRYPT`'s, else one of no bytes. -/
def cipherBuffer : Instr → Buffer
  | .endStream => bufferOf 0 0
  | .lcopyt _ _ => bufferOf 0 0
  | .lcopyh _ _ => bufferOf 0 0
  | .scopy _ _ => bufferOf 0 0
  | .lit _ => bufferOf 0 0
  | .prsCompress _ _ _ _ _ _ => bufferOf 0 0
  | .prsDecompress _ _ _ _ _ _ => bufferOf 0 0
  | .prsSize _ _ _ _ => bufferOf 0 0
  | .cipherCreateKeys _ _ _ => bufferOf 0 0
  | .cipherCrypt _ _ base len _ => bufferOf base len
  | .cipherNextWord _ _ => bufferOf 0 0
  | .cipherRelease _ _ => bufferOf 0 0

/-- `y` is a candidate start for source position `x` (R101, R103). -/
abbrev Candidate (window x y : Nat) : Prop := 1 ≤ y ∧ x ≤ y + window ∧ y + 3 ≤ x

/-! ### Runs -/

/-- `n` steps, ending early at a fault or a refusal. -/
def runSteps : Nat → State → Result
  | 0, s => .next s
  | n + 1, s =>
    match step s with
    | .next t => runSteps n t
    | .fault r => .fault r
    | .refused r => .refused r

/-! ### Keystreams (R37) -/

/-- The next word of a keyed context (R195); an unkeyed one has none. -/
def drawWord (c : Context) : Word × Context :=
  match c.variant with
  | .none => (0, c)
  | .pc => pcNextWord c
  | .gc => gcNextWord c

/-- The context after `k` draws. -/
def afterDraws : Nat → Context → Context
  | 0, c => c
  | k + 1, c => afterDraws k (drawWord c).2

/-- Word `k` of the context's keystream, counted from 0. -/
def keystreamWord (c : Context) (k : Nat) : Word := (drawWord (afterDraws k c)).1

/-- The keyed context that a variant's key setup makes (R155, R177). -/
def keyedContext (cfg : Config) (v : Variant) (seed : Word) (c : Context) : Context :=
  match v with
  | .none => c
  | .pc => pcCreateKeys cfg seed c
  | .gc => gcCreateKeys cfg seed c

/-- The tag of a variant (R86). -/
def tagOf : Variant → Byte
  | .none => 0xFF
  | .pc => 0x00
  | .gc => 0x01

/-- The state of the generator of R170 after `n` rounds. -/
def lcgState (seed : Word) (n : Nat) : Word := repeated (fun s => s * gcMult + gcInc) n seed

/-! ### The payload of a PRS stream, as a function of the stream (R122-R132) -/

/-- `n` bytes, each the byte `d` before the end (R132). -/
def appendCopy (d : Nat) : Nat → List Byte → List Byte
  | 0, out => out
  | n + 1, out => appendCopy d n (out ++ [out.getD (out.length - d) 0])

/-- A copy: none if it starts before the output (R131). -/
def appendReference (distance : Int) (len : Nat) (out : List Byte) : Option (List Byte) :=
  if (out.length : Int) + distance < 0 then none else some (appendCopy (-distance).toNat len out)

/-- The output after one token that is not `END` (R123-R126); a command is no token. -/
def appendToken (i : Instr) (out : List Byte) : Option (List Byte) :=
  match i with
  | .endStream => some out
  | .lcopyt q b2 => appendReference (longDistance q) (trailerLength b2) out
  | .lcopyh c q => appendReference (longDistance q) (headerLength c) out
  | .scopy l d8 => appendReference (shortDistance d8) (shortLength l) out
  | .lit b => some (out ++ [b])
  | .prsCompress _ _ _ _ _ _ => none
  | .prsDecompress _ _ _ _ _ _ => none
  | .prsSize _ _ _ _ => none
  | .cipherCreateKeys _ _ _ => none
  | .cipherCrypt _ _ _ _ _ => none
  | .cipherNextWord _ _ => none
  | .cipherRelease _ _ => none

/-- The loop of R122 on lists: the output at `END`, none where the stream is malformed. -/
def payloadLoop (src : Nat → Option Byte) : Nat → DecodeCursor → List Byte → Option (List Byte)
  | 0, _, _ => none
  | k + 1, c, out =>
    match decodeToken src c with
    | .error _ => none
    | .ok (i, c') =>
      if i = .endStream then some out
      else match appendToken i out with
        | none => none
        | some out' => payloadLoop src k c' out'

/-- The payload of a stream, none where it is malformed (R121, R131). -/
def payload (stream : List Byte) : Option (List Byte) :=
  payloadLoop (byteSource stream) (stream.length + 1) DecodeCursor.start []

/-- The output of the tokens before `END`, or before the first token that is malformed (R121, R131), by the same loop. -/
def producedLoop (src : Nat → Option Byte) : Nat → DecodeCursor → List Byte → List Byte
  | 0, _, out => out
  | k + 1, c, out =>
    match decodeToken src c with
    | .error _ => out
    | .ok (i, c') =>
      if i = .endStream then out
      else match appendToken i out with
        | none => out
        | some out' => producedLoop src k c' out'

/-- What a stream produces before it ends, well or badly: its payload where it has one. -/
def produced (stream : List Byte) : List Byte :=
  producedLoop (byteSource stream) (stream.length + 1) DecodeCursor.start []

/-- The bytes of `HostMem` that a buffer names. -/
def Buffer.bytes (b : Buffer) (m : Memory) : List Byte := m.readBytes b.base b.len

/-! ### Refusal conditions of the PRS commands (R110, R140, R141) -/

/-- `PRS.SIZE` is not refused. -/
abbrev sizeAccepted (s : State) (srcBase srcLen : Word) : Prop := (bufferOf srcBase srcLen).valid s.cfg = true

/-- `PRS.COMPRESS` and `PRS.DECOMPRESS` are not refused. -/
abbrev prsAccepted (s : State) (srcBase srcLen dstBase dstCap : Word) : Prop :=
  (bufferOf srcBase srcLen).valid s.cfg = true ∧ (bufferOf dstBase dstCap).valid s.cfg = true ∧
    (bufferOf srcBase srcLen).overlaps (bufferOf dstBase dstCap) = false

/-- `CRYPT` is not refused, on a slot that exists (R190, R194). -/
abbrev cryptAccepted (s : State) (slot : Half) (bufBase bufLen flags : Word) : Prop :=
  slot.toNat < s.nCtx ∧ flags >>> 1 = 0 ∧ (bufferOf bufBase bufLen).valid s.cfg = true ∧ bufLen.toNat % 4 = 0

end Sys2Proof.Machine
end

