-- ==== Sys2Proof/Certificates/Slice0/Obligations.lean ====
section
/-! DEFINITION. The statements for the provers. Each docstring names the rules of spec/ it rests on; OBLIGATIONS.json lists
them. `log <n>` is a row of notes/assumptions/. -/

open Sys2Proof
open Sys2Proof.Machine

/-! ### Encoding and decoding -/

/-- R75-R80, R84, R85: decoding an encoded instruction gives it back, with every operand at every value its encoding
admits. A command needs no well-formedness: its unread fields are kept. -/
def Obligations.DecodeInvertsEncode : Prop :=
  ∀ i : Instr, (i.isToken = true → i.WellFormed) → decode (encode i) = .ok i

/-- R84, R85: no bit of a command's words is dropped: the words read are the instruction's words, the rest follow. -/
def Obligations.CommandWordsReadBack : Prop :=
  ∀ (ws : List Word) (i : Instr) (rest : List Word),
    decodeCommand ws = .ok (i, rest) → i.isToken = false ∧ commandWords i ++ rest = ws

/-- R81, R120, R134: the token decoder gives only well-formed tokens, reads at least one source byte, keeps `cbLeft` in
0..8 and leaves the output position alone. That a token reads a byte is the spec's inference (R134). -/
def Obligations.DecodedTokenIsWellFormed : Prop :=
  ∀ (src : Nat → Option Byte) (c c' : DecodeCursor) (i : Instr),
    decodeToken src c = .ok (i, c') →
      i.isToken = true ∧ i.WellFormed ∧ c.srcPos < c'.srcPos ∧ c'.dstPos = c.dstPos ∧ (c.cbLeft ≤ 8 → c'.cbLeft ≤ 8)

/-- R82: the first row whose `K & mask = match` wins, and its fields are the key's; the data byte that the key does not
number is 0 here. How a key is laid out as a stream is the model's choice (log 7). The spec marks the key as its
inference (R82). -/
def Obligations.TokenKeySelectsRow : Prop :=
  ∀ k : BitVec 18, decodeTableWord 24 k.toNat = some (
    if k &&& 0x3FFFF = 0x2 then Instr.endStream
    else if k &&& 0x1F = 0x2 then Instr.lcopyt (k.extractLsb' 5 13) 0
    else if k &&& 0x3 = 0x2 then Instr.lcopyh (k.extractLsb' 2 3) (k.extractLsb' 5 13)
    else if k &&& 0x3 = 0x0 then Instr.scopy (lengthBits (k.getLsbD 2) (k.getLsbD 3)) 0
    else Instr.lit 0)

/-- Words written out from R75, R84, R85 decode to the instructions they stand for (95_test_vectors.md). -/
def Obligations.WrittenWordsDecode : Prop :=
  decode (.stream [0x02, 0x00, 0x00]) = .ok .endStream ∧
  decode (.stream [0x01, 0x41]) = .ok (.lit 0x41) ∧
  decode (.stream [0x0C, 0xFF]) = .ok (.scopy 3 0xFF) ∧
  decode (.stream [0x02, 0xB7, 0xFF]) = .ok (.lcopyh 7 8182) ∧
  decode (.stream [0x02, 0xB0, 0xFF, 0x09]) = .ok (.lcopyt 8182 0x09) ∧
  decode (.words [0x00000003, 0x2000, 10]) = .ok (.prsSize 0 0 0x2000 10) ∧
  decode (.words [0x00010110, 0x00000001]) = .ok (.cipherCreateKeys 1 1 1)

/-- R76-R78: the compressor's long-form bytes carry `q = dist + 8192`, which R77 inverts, with the length code or length
byte; the short form's byte carries `dist + 256`. The spec marks the inversion as its inference (R78). -/
def Obligations.OperandBytesInvert : Prop :=
  (∀ (dist : Int) (len : Nat), -8192 ≤ dist → dist ≤ -1 → 3 ≤ len → len ≤ 9 →
    let v := le16 (headerByte0 dist len) (longByte1 dist)
    ((distanceCode v).toNat : Int) = dist + 8192 ∧ longDistance (distanceCode v) = dist ∧
      headerLength (lengthCode v) = len) ∧
  (∀ (dist : Int) (len : Nat), -8192 ≤ dist → dist ≤ -1 → 1 ≤ len → len ≤ 256 →
    let v := le16 (trailerByte0 dist) (longByte1 dist)
    ((distanceCode v).toNat : Int) = dist + 8192 ∧ longDistance (distanceCode v) = dist ∧
      lengthCode v = 0 ∧ trailerLength (trailerByte2 len) = len) ∧
  (∀ dist : Int, -256 ≤ dist → dist ≤ -1 →
    ((shortDistanceByte dist).toNat : Int) = dist + 256 ∧ shortDistance (shortDistanceByte dist) = dist)

/-! ### The step -/

/-- R8, R84: when the issued words decode to a command, the step takes its words from the port and runs it. The port is
the model's (log 5). -/
def Obligations.StepRunsIssuedCommand : Prop :=
  ∀ (s : State) (i : Instr) (rest : List Word), s.job = none → decodeCommand s.port = .ok (i, rest) →
    step s = exec i (s.withPort rest)

/-- R122: when the bytes at the walk's cursor decode to a token, the step moves the cursor past its bits and bytes and
runs it (log 6). -/
def Obligations.StepRunsStreamToken : Prop :=
  ∀ (s : State) (w : Walk) (i : Instr) (dc : DecodeCursor), s.job = some (.decode w) → w.valid s.cfg = true →
    decodeToken (w.source s.mem) w.dc = .ok (i, dc) →
    step s = exec i (s.withJob (some (.decode { w with dc := dc })))

/-- R121, R203: a token that reads past `srcLen` ends the command with `MalformedCompressedStream`. -/
def Obligations.ExhaustedStreamIsMalformed : Prop :=
  ∀ (s : State) (w : Walk) (e : DecodeError), s.job = some (.decode w) → w.valid s.cfg = true →
    decodeToken (w.source s.mem) w.dc = .error e →
    ∃ t, step s = .next t ∧ endsInError 0x02 w.dst s t

/-- R213: between commands the block is idle and all state persists. R85: an unassigned code is refused. That an
incomplete command waits is the model's choice (log 5). -/
def Obligations.PortIdleOrUnassigned : Prop :=
  (∀ s : State, s.job = none → s.port = [] → step s = .next s) ∧
  (∀ (s : State) (cw : Word) (ws : List Word), s.job = none → s.port = cw :: ws →
    cwOp cw ∉ [0x01, 0x02, 0x03, 0x10, 0x11, 0x12, 0x13] → step s = .refused .unassignedOp)

/-- R8, R122: `PRS.DECOMPRESS` and `PRS.SIZE`, each one step, are their decode walks run token by token, within
`srcLen + 1` tokens (R134; log 6). -/
def Obligations.DecodeCommandIsItsTokens : Prop :=
  (∀ (s : State) (sb sl db dc : Word), prsAccepted s sb sl db dc →
    ∃ n, n ≤ sl.toNat + 1 ∧
      runSteps n (s.withJob (some (.decode (Walk.start (bufferOf sb sl) (some (bufferOf db dc)))))) =
        exec (.prsDecompress 0 0 sb sl db dc) s) ∧
  (∀ (s : State) (sb sl : Word), sizeAccepted s sb sl →
    ∃ n, n ≤ sl.toNat + 1 ∧
      runSteps n (s.withJob (some (.decode (Walk.start (bufferOf sb sl) none)))) = exec (.prsSize 0 0 sb sl) s)

/-- R8, R104, R110: `PRS.COMPRESS`, one step, is its compression run step by step from the cursor of R22, within `srcLen + 1`
steps (log 6). -/
def Obligations.CompressCommandIsItsSteps : Prop :=
  ∀ (s : State) (sb sl db dc : Word), prsAccepted s sb sl db dc →
    ∃ n, n ≤ sl.toNat + 1 ∧
      runSteps n (s.withJob (some (.compress (bufferOf sb sl) (bufferOf db dc) Emitter.start))) =
        exec (.prsCompress 0 0 sb sl db dc) s

/-! ### The PRS tokens -/

/-- R123: `LIT` writes its byte at the output position, where a destination is being written, and advances the position
by 1; nothing else changes. -/
def Obligations.LitAppendsItsByte : Prop :=
  ∀ (s : State) (w : Walk) (b : Byte), s.job = some (.decode w) → w.valid s.cfg = true → s.mem.wf →
    (∀ d ∈ w.dst, w.dc.dstPos + 1 ≤ d.len) →
    ∃ t, exec (.lit b) s = .next t ∧
      t.job = some (.decode { w with dc := { w.dc with dstPos := w.dc.dstPos + 1 } }) ∧
      (∀ d ∈ w.dst, t.mem.read (d.base + w.dc.dstPos) = b ∧
        ∀ a, a ≠ d.base + w.dc.dstPos → t.mem.read a = s.mem.read a) ∧
      (w.dst = none → t.mem = s.mem) ∧
      t.slots = s.slots ∧ t.status = s.status ∧ t.result = s.result ∧ sameModelFields s t

/-- R77, R130, R132: a copy token with distance `-d` and length `len` makes output byte `dstPos + i` equal to output
byte `dstPos + (i mod d) - d`, and advances the position by `len`; nothing else changes. The size probe writes nothing.
The spec marks the formula with `mod` as its inference (R132). -/
def Obligations.CopyTokensRepeatOutput : Prop :=
  ∀ (s : State) (w : Walk) (i : Instr) (dist : Int) (len : Nat), copyOperands i = some (dist, len) →
    s.job = some (.decode w) → w.valid s.cfg = true → s.mem.wf → 0 ≤ (w.dc.dstPos : Int) + dist →
    (∀ d ∈ w.dst, w.dc.dstPos + len ≤ d.len) →
    ∃ t, exec i s = .next t ∧
      t.job = some (.decode { w with dc := { w.dc with dstPos := w.dc.dstPos + len } }) ∧
      (∀ d ∈ w.dst,
        (∀ k, k < len → t.mem.read (d.base + w.dc.dstPos + k) =
          s.mem.read (d.base + (w.dc.dstPos - (-dist).toNat) + k % (-dist).toNat)) ∧
        ∀ a, ¬ (d.base + w.dc.dstPos ≤ a ∧ a < d.base + w.dc.dstPos + len) → t.mem.read a = s.mem.read a) ∧
      (w.dst = none → t.mem = s.mem) ∧
      t.slots = s.slots ∧ t.status = s.status ∧ t.result = s.result ∧ sameModelFields s t

/-- R127, R140, R141: `END` ends the command: `STATUS` is `OK`, `RESULT` is the count of bytes produced, the cursor is
dropped, and nothing else changes. A count over 32 bits leaves `RESULT` free (log 9). -/
def Obligations.EndStreamEndsCommand : Prop :=
  ∀ (s : State) (w : Walk), s.job = some (.decode w) → w.valid s.cfg = true →
    ∃ t, exec .endStream s = .next t ∧ t.status = 0x00 ∧ t.job = none ∧ t.mem = s.mem ∧ t.slots = s.slots ∧
      t.cfg = s.cfg ∧ t.port = s.port ∧
      (w.dc.dstPos < 2 ^ 32 → t.result = BitVec.ofNat 32 w.dc.dstPos ∧ t.freeCount = s.freeCount)

/-- R131: a copy whose first source byte is before the start of the output raises `MalformedCompressedStream`; the size
probe checks this too. -/
def Obligations.ReferenceBeforeStartIsMalformed : Prop :=
  ∀ (s : State) (w : Walk) (i : Instr) (dist : Int) (len : Nat), copyOperands i = some (dist, len) →
    s.job = some (.decode w) → w.valid s.cfg = true → (w.dc.dstPos : Int) + dist < 0 →
    ∃ t, exec i s = .next t ∧ endsInError 0x02 w.dst s t

/-- R133: a literal or copy that would pass the capacity raises `DestinationTooSmall`; output that exactly fills it is no
error. -/
def Obligations.OutputPastCapacityIsTooSmall : Prop :=
  ∀ (s : State) (w : Walk) (d : Buffer) (i : Instr) (n : Nat), s.job = some (.decode w) → w.dst = some d →
    w.valid s.cfg = true →
    ((∃ b, i = .lit b ∧ n = 1) ∨ ∃ dist, copyOperands i = some (dist, n) ∧ 0 ≤ (w.dc.dstPos : Int) + dist) →
    (d.len < w.dc.dstPos + n → ∃ t, exec i s = .next t ∧ endsInError 0x03 (some d) s t) ∧
    (w.dc.dstPos + n = d.len → ∃ t w', exec i s = .next t ∧ t.job = some (.decode w') ∧ w'.dc.dstPos = d.len)

/-- R27: a token exists only in a stream being decoded; the model refuses one run anywhere else (log 15, the model's
choice). -/
def Obligations.TokenNeedsDecodeWalk : Prop :=
  ∀ (s : State) (i : Instr), i.isToken = true → (∀ w, s.job ≠ some (.decode w)) →
    exec i s = .refused .noDecodeInProgress

/-! ### The decompressor and the size probe -/

/-- R122-R132, R140: on a well-formed stream whose payload fits, `PRS.DECOMPRESS` writes exactly the payload, reports its
length, and changes nothing else. -/
def Obligations.DecompressWritesPayload : Prop :=
  ∀ (s : State) (sb sl db dc : Word) (out : List Byte), prsAccepted s sb sl db dc → s.mem.wf →
    payload ((bufferOf sb sl).bytes s.mem) = some out → out.length ≤ dc.toNat →
    ∃ t, exec (.prsDecompress 0 0 sb sl db dc) s = .next t ∧ t.status = 0x00 ∧
      t.result = BitVec.ofNat 32 out.length ∧
      t.mem.readBytes db.toNat out.length = out ∧
      sameOutside { base := db.toNat, len := out.length } s.mem t.mem ∧
      t.slots = s.slots ∧ t.job = none ∧ sameModelFields s t

/-- R130, R133, R140, R203: a payload over the capacity ends in `DestinationTooSmall`. A malformed stream ends in
`MalformedCompressedStream`, unless the output before its malformed token passes the capacity: then it ends, earlier in the
stream, in `DestinationTooSmall`. A capacity of `256 * srcLen` bytes is never passed. -/
def Obligations.DecompressFailsWithoutPayload : Prop :=
  ∀ (s : State) (sb sl db dc : Word), prsAccepted s sb sl db dc → s.mem.wf →
    (∀ out, payload ((bufferOf sb sl).bytes s.mem) = some out → dc.toNat < out.length →
      ∃ t, exec (.prsDecompress 0 0 sb sl db dc) s = .next t ∧ endsInError 0x03 (some (bufferOf db dc)) s t) ∧
    (payload ((bufferOf sb sl).bytes s.mem) = none →
      ((produced ((bufferOf sb sl).bytes s.mem)).length ≤ dc.toNat →
        ∃ t, exec (.prsDecompress 0 0 sb sl db dc) s = .next t ∧ endsInError 0x02 (some (bufferOf db dc)) s t) ∧
      (dc.toNat < (produced ((bufferOf sb sl).bytes s.mem)).length →
        ∃ t, exec (.prsDecompress 0 0 sb sl db dc) s = .next t ∧ endsInError 0x03 (some (bufferOf db dc)) s t) ∧
      (256 * sl.toNat ≤ dc.toNat →
        ∃ t, exec (.prsDecompress 0 0 sb sl db dc) s = .next t ∧ endsInError 0x02 (some (bufferOf db dc)) s t))

/-- R135, R141: `PRS.SIZE` reports the payload's length, or `MalformedCompressedStream`; it writes no memory. A length
over 32 bits leaves `RESULT` free (log 9). -/
def Obligations.SizeReportsPayloadLength : Prop :=
  ∀ (s : State) (sb sl : Word), sizeAccepted s sb sl →
    (∀ out, payload ((bufferOf sb sl).bytes s.mem) = some out →
      ∃ t, exec (.prsSize 0 0 sb sl) s = .next t ∧ t.status = 0x00 ∧ t.mem = s.mem ∧ t.slots = s.slots ∧
        t.job = none ∧ t.cfg = s.cfg ∧ t.port = s.port ∧
        (out.length < 2 ^ 32 → t.result = BitVec.ofNat 32 out.length ∧ t.freeCount = s.freeCount)) ∧
    (payload ((bufferOf sb sl).bytes s.mem) = none →
      ∃ t, exec (.prsSize 0 0 sb sl) s = .next t ∧ endsInError 0x02 none s t)

/-- R142: the decompressor returns `m` exactly when the probe returns `m` and `m <= cap`; where the probe raises
`MalformedCompressedStream`, the decompressor raises that or `DestinationTooSmall`. Stated for streams under 2^24 bytes,
whose lengths fit `RESULT` (R134; log 9). The spec marks the agreement as its inference (R142). -/
def Obligations.ProbeAgreesWithDecompressor : Prop :=
  ∀ (s : State) (sb sl db dc : Word), prsAccepted s sb sl db dc → s.mem.wf → sl.toNat < 2 ^ 24 →
    ∃ t p, exec (.prsDecompress 0 0 sb sl db dc) s = .next t ∧ exec (.prsSize 0 0 sb sl) s = .next p ∧
      (∀ m : Word, (t.status = 0x00 ∧ t.result = m) ↔ (p.status = 0x00 ∧ p.result = m ∧ m.toNat ≤ dc.toNat)) ∧
      (p.status = 0x02 → t.status = 0x02 ∨ t.status = 0x03)

/-- R134: a stream of `n` bytes produces at most `256 * n` bytes, whether it is malformed or not; a payload is what the
stream produces. The spec marks the bound as its inference (R134). -/
def Obligations.PayloadLengthBound : Prop :=
  ∀ stream : List Byte, (produced stream).length ≤ 256 * stream.length ∧
    ∀ out, payload stream = some out → out = produced stream ∧ out.length ≤ 256 * stream.length

/-! ### The compressor -/

/-- R110: `PRS.COMPRESS` writes exactly the stream of its source and reports its length when it fits `dstCap`, and ends in
`DestinationTooSmall` when it does not; nothing else changes. -/
def Obligations.CompressWritesStream : Prop :=
  ∀ (s : State) (sb sl db dc : Word), prsAccepted s sb sl db dc → s.mem.wf →
    let stream := compressBytes s.cfg.prsWindow ((bufferOf sb sl).bytes s.mem)
    (stream.length ≤ dc.toNat →
      ∃ t, exec (.prsCompress 0 0 sb sl db dc) s = .next t ∧ t.status = 0x00 ∧
        t.result = BitVec.ofNat 32 stream.length ∧ t.mem.readBytes db.toNat stream.length = stream ∧
        sameOutside { base := db.toNat, len := stream.length } s.mem t.mem ∧
        t.slots = s.slots ∧ t.job = none ∧ sameModelFields s t) ∧
    (dc.toNat < stream.length →
      ∃ t, exec (.prsCompress 0 0 sb sl db dc) s = .next t ∧ endsInError 0x03 (some (bufferOf db dc)) s t)

/-- R109: the stream of `n` bytes is at most `n + 2 + ceil((n + 2) / 8)` bytes long, with equality when every token is a
literal. The spec marks the bound as its inference (R109). -/
def Obligations.CompressedLengthBound : Prop :=
  ∀ (window : Nat) (src : List Byte),
    (compressBytes window src).length ≤ src.length + 2 + (src.length + 2 + 7) / 8 ∧
    ((∀ x, x < src.length → (bestMatch window src x).1 < 3) →
      (compressBytes window src).length = src.length + 2 + (src.length + 2 + 7) / 8)

/-- R111: `PRS.DECOMPRESS` of the stream of `b`, with a large enough capacity, gives `b`, and `PRS.SIZE` of it gives
`len(b)`. The window may be R6's 8175, or anything whose distances the long form can encode. The spec marks this as its
inference (R111). -/
def Obligations.CompressedStreamRoundTrip : Prop :=
  ∀ (s : State) (sb sl db dc : Word) (b : List Byte), prsAccepted s sb sl db dc → s.mem.wf →
    s.cfg.prsWindow ≤ 8191 → (bufferOf sb sl).bytes s.mem = compressBytes s.cfg.prsWindow b → b.length ≤ dc.toNat →
    (∃ t, exec (.prsDecompress 0 0 sb sl db dc) s = .next t ∧ t.status = 0x00 ∧
      t.result = BitVec.ofNat 32 b.length ∧ t.mem.readBytes db.toNat b.length = b) ∧
    ∃ t, exec (.prsSize 0 0 sb sl) s = .next t ∧ t.status = 0x00 ∧ t.result = BitVec.ofNat 32 b.length

/-- R102: `matchLen(x, y)` is the largest `L` with `L <= 255`, `y + L <= x`, `x + L <= n` and equal bytes. -/
def Obligations.MatchLengthIsLargest : Prop :=
  ∀ (src : List Byte) (x y : Nat), y ≤ x → x ≤ src.length →
    let fits := fun l : Nat => l ≤ 255 ∧ y + l ≤ x ∧ x + l ≤ src.length ∧ ∀ i, i < l → src[y + i]? = src[x + i]?
    fits (matchLen src x y) ∧ ∀ l, fits l → l ≤ matchLen src x y

/-- R101, R103: the best match has the greatest length of all candidates, and the smallest distance of those with that
length; without a match of positive length it is (0, 0). `window` is `PRS_WINDOW`. -/
def Obligations.BestMatchIsLongestNearest : Prop :=
  ∀ (window : Nat) (src : List Byte) (x : Nat),
    let best := bestMatch window src x
    (∀ y, Candidate window x y → matchLen src x y ≤ best.1) ∧
    (best.1 = 0 → best.2 = 0) ∧
    (0 < best.1 → best.2 ≤ x ∧ Candidate window x (x - best.2) ∧ matchLen src x (x - best.2) = best.1 ∧
      ∀ y, Candidate window x y → matchLen src x y = best.1 → best.2 ≤ x - y)

/-- R75, R88, R105, R107: a copy with `d <= 255` and `len <= 5` is an `SCOPY`, any other with `len <= 9` an `LCOPYH`, any other
an `LCOPYT`, both as `COPY -d, L` and as emitted; the form carries the copy's distance and length; and emitting the copy puts
the form's control bits, then its data bytes, as the encoder writes them. It is a well-formed instruction but for `d = 8192`
with `len >= 10` (log 17). The spec marks the pseudo-token as its inference (R88). -/
def Obligations.EmittedCopyIsEncodedForm : Prop :=
  ∀ d len : Nat, (1 ≤ d ∧ d ≤ 8192 ∧ 3 ≤ len ∧ len ≤ 256) ∨ (1 ≤ d ∧ d ≤ 255 ∧ len = 2) →
    ∃ i, copyPseudoToken d len = some i ∧ copyOperands i = some (-(d : Int), len) ∧
      (d ≠ 8192 ∨ len ≤ 9 → i.WellFormed) ∧
      (∀ e : Emitter, e.emitCopy (-(d : Int)) len =
        (dataBytes i).foldl Emitter.putByte ((controlBits i).foldl Emitter.putBit e)) ∧
      if d ≤ 255 ∧ len ≤ 5 then
        (∃ l d8, i = .scopy l d8) ∧ ∀ e : Emitter, e.emitCopy (-(d : Int)) len = e.emitScopy (-(d : Int)) len
      else if len ≤ 9 then
        (∃ c q, i = .lcopyh c q) ∧ ∀ e : Emitter, e.emitCopy (-(d : Int)) len = e.emitLcopyh (-(d : Int)) len
      else
        (∃ q b2, i = .lcopyt q b2) ∧ ∀ e : Emitter, e.emitCopy (-(d : Int)) len = e.emitLcopyt (-(d : Int)) len

/-- R104: a step of the compressor at position `x`, with best match `(BL, BD)`: `BL < 3` emits a literal for `src[x]` and
advances by 1; `BL >= 3` emits a copy of distance `-BD` and length `BL` and advances by `BL`. So it advances `x` by at least 1
and never past the source, and a copy has `BL <= 255`, `BL <= BD` and `BD` within the window. The spec marks the ranges (R104)
and termination (R239) as its inference. -/
def Obligations.CompressorAdvances : Prop :=
  ∀ (window : Nat) (src : List Byte) (e : Emitter) (b : Byte), src[e.cc.x]? = some b →
    let best := bestMatch window src e.cc.x
    (best.1 < 3 → compressStep window src e = (e.emitLit b).advanceTo (e.cc.x + 1)) ∧
    (3 ≤ best.1 → compressStep window src e = (e.emitCopy (-(best.2 : Int)) best.1).advanceTo (e.cc.x + best.1) ∧
      best.1 ≤ 255 ∧ best.1 ≤ best.2 ∧ best.2 ≤ window) ∧
    e.cc.x < (compressStep window src e).cc.x ∧ (compressStep window src e).cc.x ≤ src.length

/-! ### The cipher commands -/

/-- R155, R177, R191, R193: `CREATE_KEYS` replaces the slot's context by the keyed one and changes nothing else. -/
def Obligations.CreateKeysKeysTheSlot : Prop :=
  ∀ (s : State) (slot : Half) (seed : Word) (v : Variant) (ctx : Context), v ≠ .none →
    s.slots[slot.toNat]? = some ctx →
    ∃ t c, exec (.cipherCreateKeys (tagOf v) slot seed) s = .next t ∧ t.slots = s.slots.set slot.toNat c ∧
      c = keyedContext s.cfg v seed ctx ∧ c.variant = v ∧
      (v = .pc → c.cursor = 55 ∧ c.pcRing.length = 56) ∧
      (v = .gc → c.cursor = 520 ∧ c.gcRing.length = 521 ∧ c.seed0 = seed) ∧
      t.status = 0x00 ∧ t.result = 0 ∧ t.mem = s.mem ∧ t.job = s.job ∧ sameModelFields s t

/-- R158, R180, R194: `CRYPT` XORs word `j` of the buffer with word `j` of the slot's keystream, for every word of the
buffer, draws exactly those words, and changes nothing else; `flags[0]` has no effect. -/
def Obligations.CryptXorsKeystream : Prop :=
  ∀ (s : State) (slot : Half) (bb bl flags : Word) (ctx : Context), s.slots[slot.toNat]? = some ctx →
    ctx.variant ≠ .none → cryptAccepted s slot bb bl flags → s.mem.wf →
    ∃ t, exec (.cipherCrypt 0 slot bb bl flags) s = .next t ∧
      (∀ j, j < bl.toNat / 4 →
        t.mem.readWord (bb.toNat + 4 * j) = s.mem.readWord (bb.toNat + 4 * j) ^^^ keystreamWord ctx j) ∧
      sameOutside (bufferOf bb bl) s.mem t.mem ∧
      t.slots = s.slots.set slot.toNat (afterDraws (bl.toNat / 4) ctx) ∧
      t.status = 0x00 ∧ t.result = 0 ∧ t.job = s.job ∧ sameModelFields s t

/-- R156, R178, R195: `NEXT_WORD` returns the next word of the slot's keystream in `RESULT` and advances the context by
one draw; nothing else changes. A PC context returns `ring[cursor]`, then advances its cursor; at cursor 55 it mixes and goes
to 1 first. A GC context advances its cursor first; past 520 it mixes and goes to 0. -/
def Obligations.NextWordDrawsOne : Prop :=
  ∀ (s : State) (slot : Half) (ctx : Context), s.slots[slot.toNat]? = some ctx → ctx.variant ≠ .none →
    ∃ t, exec (.cipherNextWord 0 slot) s = .next t ∧ t.result = keystreamWord ctx 0 ∧
      t.slots = s.slots.set slot.toNat (afterDraws 1 ctx) ∧
      t.status = 0x00 ∧ t.mem = s.mem ∧ t.job = s.job ∧ sameModelFields s t ∧
      (ctx.variant = .pc → ctx.cursor ≠ 55 →
        t.result = ringGet ctx.pcRing ctx.cursor ∧
          t.slots = s.slots.set slot.toNat { ctx with cursor := ctx.cursor + 1 }) ∧
      (ctx.variant = .pc → ctx.cursor = 55 →
        t.result = ringGet (pcMix ctx.pcRing) 1 ∧
          t.slots = s.slots.set slot.toNat { ctx with pcRing := pcMix ctx.pcRing, cursor := 2 }) ∧
      (ctx.variant = .gc → ctx.cursor ≠ 520 →
        t.result = ringGet ctx.gcRing (ctx.cursor + 1) ∧
          t.slots = s.slots.set slot.toNat { ctx with cursor := ctx.cursor + 1 }) ∧
      (ctx.variant = .gc → ctx.cursor = 520 →
        t.result = ringGet (gcMixRing ctx.gcRing) 0 ∧
          t.slots = s.slots.set slot.toNat { ctx with gcRing := gcMixRing ctx.gcRing, cursor := 0 })

/-- R196: `RELEASE` sets the slot's variant to `NONE`; ring words, cursor and every other state keep their values. -/
def Obligations.ReleaseDropsContext : Prop :=
  ∀ (s : State) (slot : Half) (ctx : Context), s.slots[slot.toNat]? = some ctx →
    ∃ t, exec (.cipherRelease 0 slot) s = .next t ∧
      t.slots = s.slots.set slot.toNat { ctx with variant := .none } ∧
      t.status = 0x00 ∧ t.result = 0 ∧ t.mem = s.mem ∧ t.job = s.job ∧ sameModelFields s t

/-- R200, R203: `CRYPT` and `NEXT_WORD` on a slot with no context raise `ContextNotKeyed`, and `CREATE_KEYS` with an
unknown tag raises `UnknownCipherVariant`; nothing but `STATUS` and `RESULT` changes. -/
def Obligations.CipherErrorsChangeNothingElse : Prop :=
  (∀ (s : State) (slot : Half) (ctx : Context), s.slots[slot.toNat]? = some ctx → ctx.variant = .none →
    exec (.cipherNextWord 0 slot) s = .next { s with status := 0x04, result := 0 } ∧
    ∀ bb bl flags, cryptAccepted s slot bb bl flags →
      exec (.cipherCrypt 0 slot bb bl flags) s = .next { s with status := 0x04, result := 0 }) ∧
  (∀ (s : State) (slot : Half) (var : Byte) (seed : Word), slot.toNat < s.nCtx → var ∉ [0x00, 0x01, 0x02] →
    exec (.cipherCreateKeys var slot seed) s = .next { s with status := 0x01, result := 0 })

/-- R190, R192, R194, R201, R202: the refusals of the cipher commands, in their order. -/
def Obligations.CipherRefusalOrder : Prop :=
  (∀ (s : State) (i : Instr) (slot : Half), cipherSlot i = some slot → s.nCtx ≤ slot.toNat →
    exec i s = .refused .badSlot) ∧
  (∀ (s : State) (slot : Half), slot.toNat < s.nCtx →
    (∀ var, var ≠ 0 →
      exec (.cipherNextWord var slot) s = .refused .reservedField ∧
      exec (.cipherRelease var slot) s = .refused .reservedField ∧
      ∀ bb bl flags, exec (.cipherCrypt var slot bb bl flags) s = .refused .reservedField) ∧
    (∀ seed, exec (.cipherCreateKeys 0x02 slot seed) s = .refused .unsupported) ∧
    (∀ bb bl flags, flags >>> 1 ≠ 0 → exec (.cipherCrypt 0 slot bb bl flags) s = .refused .reservedField) ∧
    (∀ bb bl flags, flags >>> 1 = 0 → (bufferOf bb bl).valid s.cfg = false →
      exec (.cipherCrypt 0 slot bb bl flags) s = .refused .badBuffer) ∧
    (∀ bb bl flags, flags >>> 1 = 0 → (bufferOf bb bl).valid s.cfg = true → bl.toNat % 4 ≠ 0 →
      exec (.cipherCrypt 0 slot bb bl flags) s = .refused .badLength))

/-- R50, R58, R110, R140, R141, R201, R202: the refusals of the PRS commands, in their order. -/
def Obligations.PrsRefusalOrder : Prop :=
  ∀ (s : State) (var : Byte) (slot : Half) (sb sl db dc : Word),
    ((var ≠ 0 ∨ slot ≠ 0) →
      exec (.prsCompress var slot sb sl db dc) s = .refused .reservedField ∧
      exec (.prsDecompress var slot sb sl db dc) s = .refused .reservedField ∧
      exec (.prsSize var slot sb sl) s = .refused .reservedField) ∧
    ((s.cfg.maxLen < sl.toNat ∨ 2 ^ s.cfg.addrBits < sb.toNat + sl.toNat) →
      exec (.prsSize 0 0 sb sl) s = .refused .badBuffer) ∧
    ((s.cfg.maxLen < sl.toNat ∨ 2 ^ s.cfg.addrBits < sb.toNat + sl.toNat ∨
        s.cfg.maxLen < dc.toNat ∨ 2 ^ s.cfg.addrBits < db.toNat + dc.toNat) →
      exec (.prsCompress 0 0 sb sl db dc) s = .refused .badBuffer ∧
      exec (.prsDecompress 0 0 sb sl db dc) s = .refused .badBuffer) ∧
    ((bufferOf sb sl).valid s.cfg = true → (bufferOf db dc).valid s.cfg = true →
      (∃ a, (bufferOf sb sl).covers a ∧ (bufferOf db dc).covers a) →
      exec (.prsCompress 0 0 sb sl db dc) s = .refused .overlap ∧
      exec (.prsDecompress 0 0 sb sl db dc) s = .refused .overlap)

/-- R198: a cipher command reads and writes only its slot, the named buffer, `STATUS` and `RESULT`; a PRS command touches
no slot. Two states that agree on the configuration, the slot and the buffer give outcomes that agree on them. -/
def Obligations.CipherCommandTouchesOnlyItsSlot : Prop :=
  (∀ (i : Instr) (slot : Half) (s s' t : State), cipherSlot i = some slot → s.mem.wf → s'.mem.wf →
    s.cfg = s'.cfg → s.slots[slot.toNat]? = s'.slots[slot.toNat]? →
    (∀ a, (cipherBuffer i).covers a → s.mem.read a = s'.mem.read a) → exec i s = .next t →
    (∃ t', exec i s' = .next t' ∧ t.status = t'.status ∧ t.result = t'.result ∧
      t.slots[slot.toNat]? = t'.slots[slot.toNat]? ∧
      ∀ a, (cipherBuffer i).covers a → t.mem.read a = t'.mem.read a) ∧
    (∀ k, k ≠ slot.toNat → t.slots[k]? = s.slots[k]?) ∧ t.nCtx = s.nCtx ∧
    sameOutside (cipherBuffer i) s.mem t.mem ∧ t.job = s.job ∧ sameModelFields s t) ∧
  (∀ (i : Instr) (s t : State) (l : List Context), cipherSlot i = none → exec i s = .next t →
    t.slots = s.slots ∧ exec i (s.withSlots l) = .next (t.withSlots l))

/-- R41: no command reads `STATUS` or `RESULT`: a command's outcome, its next state included, does not depend on them. -/
def Obligations.CommandsDoNotReadStatus : Prop :=
  ∀ (i : Instr) (s : State) (st : Byte) (r : Word), i.isToken = false → exec i (s.withOutcome st r) = exec i s

/-! ### The PC engine -/

/-- R150, R152: the recurrence visits every slot 0..54 once; slot 0 holds the seed, the next stores are `0`, `seed`,
`-seed`, `2 * seed`, and each store is the one two before it minus the one before it. That the visit order is a
permutation, and the first stores, are the spec's inference (R152). -/
def Obligations.PcRingRecurrence : Prop :=
  ((List.range 55).map fun i => 21 * i % 55).Perm (List.range 55) ∧
  ∀ seed : Word,
    let ring := pcRingInit seed
    ring.length = 56 ∧ ringGet ring 0 = seed ∧ ringGet ring 21 = 0 ∧ ringGet ring 42 = seed ∧
      ringGet ring 8 = -seed ∧ ringGet ring 29 = 2 * seed ∧
      ∀ i, i + 2 < 55 → ringGet ring (21 * (i + 2) % 55) =
        ringGet ring (21 * i % 55) - ringGet ring (21 * (i + 1) % 55)

/-- R153, R154: slot 0 keeps its word; slots 1..24 subtract the old word 31 ahead; slots 25..55 subtract the NEW word 24
behind. -/
def Obligations.PcMixInPlace : Prop :=
  ∀ ring : List Word, ring.length = 56 →
    (pcMix ring).length = 56 ∧ ringGet (pcMix ring) 0 = ringGet ring 0 ∧
    (∀ p, 1 ≤ p → p ≤ 24 → ringGet (pcMix ring) p = ringGet ring p - ringGet ring (p + 31)) ∧
    (∀ p, 25 ≤ p → p ≤ 55 → ringGet (pcMix ring) p = ringGet ring p - ringGet (pcMix ring) (p - 24))

/-- R155, R156: call `k` (from 1) returns slot `1 + ((k-1) mod 54)` of the ring after mix number `4 + ceil(k/54)`; here
`k` counts from 0. The spec marks this as its inference (R156). -/
def Obligations.PcWordSchedule : Prop :=
  ∀ (cfg : Config) (seed : Word) (c : Context) (k : Nat),
    keystreamWord (pcCreateKeys cfg seed c) k =
      ringGet (repeated pcMix (5 + k / 54) (ringSet (pcRingInit seed) 55 cfg.pcSlot55Init)) (1 + k % 54)

/-- R32, R152, R156: the word in slot 0 reaches no keystream word. The spec marks this as its inference (R152). -/
def Obligations.PcSlotZeroIsUnread : Prop :=
  ∀ (c : Context) (w : Word) (k : Nat), c.variant = .pc → c.ok →
    keystreamWord { c with pcRing := ringSet c.pcRing 0 w } k = keystreamWord c k

/-- R160: with `PC_SLOT55_INIT = 0` the whole PC keystream is linear in the seed, modulo 2^32; so seed 0 gives the
all-zero keystream and its transform leaves every buffer unchanged. With a nonzero `PC_SLOT55_INIT` the law does not
hold. The spec marks the law as its inference (R160). -/
def Obligations.PcKeystreamIsLinear : Prop :=
  (∀ (cfg : Config) (c : Context), cfg.pcSlot55Init = 0 →
    (∀ (seed : Word) (k : Nat),
      keystreamWord (pcCreateKeys cfg seed c) k = seed * keystreamWord (pcCreateKeys cfg 1 c) k) ∧
    (∀ k : Nat, keystreamWord (pcCreateKeys cfg 0 c) k = 0) ∧
    ∀ (buf : Buffer) (m : Memory), m.wf → (pcTransform buf m (pcCreateKeys cfg 0 c)).1 = m) ∧
  ∀ (cfg : Config) (c : Context), cfg.pcSlot55Init ≠ 0 →
    ∃ (seed : Word) (k : Nat),
      keystreamWord (pcCreateKeys cfg seed c) k ≠ seed * keystreamWord (pcCreateKeys cfg 1 c) k

/-! ### The GameCube engine -/

/-- R170: bit `31 - m` of base word `j` is bit 31 of the LCG state after round `32 - m` of that word. -/
def Obligations.GcBaseWordBits : Prop :=
  ∀ seed : Word, (gcBaseWords seed).length = 17 ∧
    ∀ j m, j < 17 → m < 32 →
      (ringGet (gcBaseWords seed) j).getLsbD (31 - m) = (lcgState seed (32 * j + (32 - m))).getLsbD 31

/-- R171, R172: the overwrite of word 16, and the fill of words 17..520, each from words already final. `tap` is
`GC_FILL_TAP`. -/
def Obligations.GcRingFill : Prop :=
  ∀ (tap : Nat) (seed : Word), 1 ≤ tap → tap ≤ 17 →
    let b := gcBaseWords seed
    let w := gcInitRing tap seed
    w.length = 521 ∧ (∀ j, j < 16 → ringGet w j = ringGet b j) ∧
    ringGet w 16 = (ringGet b 0 >>> 9) ^^^ (ringGet b 16 <<< 23) ^^^ ringGet b 15 ∧
    ∀ i, 17 ≤ i → i ≤ 520 → ringGet w i =
      ringGet w (i - tap) ^^^ ((ringGet w (i - 17) <<< 23) &&& 0xFF800000)
        ^^^ ((ringGet w (i - 16) >>> 9) &&& 0x007FFFFF)

/-- R173, R175: slots 0..31 take the old word 489 ahead, slots 32..520 the NEW word 32 behind, and the cursor becomes
0. -/
def Obligations.GcMixInPlace : Prop :=
  ∀ c : Context, c.gcRing.length = 521 →
    (gcMix c).gcRing.length = 521 ∧ (gcMix c).cursor = 0 ∧
    (∀ i, i ≤ 31 → ringGet (gcMix c).gcRing i = ringGet c.gcRing i ^^^ ringGet c.gcRing (i + 489)) ∧
    (∀ i, 32 ≤ i → i ≤ 520 → ringGet (gcMix c).gcRing i = ringGet c.gcRing i ^^^ ringGet (gcMix c).gcRing (i - 32))

/-- R177, R179: call `k` (from 1) returns slot `(k-1) mod 521` of the ring after mix number `3 + ceil(k/521)`, and the
cursor is in 0..520 between calls; here `k` counts from 0. The spec marks this as its inference (R179). -/
def Obligations.GcWordSchedule : Prop :=
  ∀ (cfg : Config) (seed : Word) (c : Context) (k : Nat),
    keystreamWord (gcCreateKeys cfg seed c) k =
      ringGet (repeated gcMixRing (4 + k / 521) (gcInitRing cfg.gcFillTap seed)) (k % 521) ∧
    (afterDraws k (gcCreateKeys cfg seed c)).cursor ≤ 520

/-! ### Both engines -/

/-- R37, R161, R181, R193: the keystream of a keyed slot is a function of the seed alone; nothing of the slot's previous
context survives into it. The spec marks this as its inference (R161, R181). -/
def Obligations.KeystreamDependsOnSeedAlone : Prop :=
  ∀ (cfg : Config) (v : Variant) (seed : Word) (c c' : Context) (k : Nat), v ≠ .none →
    keystreamWord (keyedContext cfg v seed c) k = keystreamWord (keyedContext cfg v seed c') k

/-- R159, R181: `CRYPT` under a fresh context, then again under a fresh context of the same seed, restores all of
memory. The spec marks this as its inference (R159, R181). -/
def Obligations.CryptTwiceRestores : Prop :=
  ∀ (s : State) (slot : Half) (seed : Word) (v : Variant) (bb bl flags flags' : Word), v ≠ .none →
    cryptAccepted s slot bb bl flags → flags' >>> 1 = 0 → s.mem.wf →
    ∃ s1 t s2 u,
      exec (.cipherCreateKeys (tagOf v) slot seed) s = .next s1 ∧ exec (.cipherCrypt 0 slot bb bl flags) s1 = .next t ∧
      exec (.cipherCreateKeys (tagOf v) slot seed) t = .next s2 ∧ exec (.cipherCrypt 0 slot bb bl flags') s2 = .next u ∧
      u.mem = s.mem

/-- R158, R235: the keystream continues across calls: `CRYPT` of a buffer in two parts is `CRYPT` of the whole. -/
def Obligations.CryptContinuesKeystream : Prop :=
  ∀ (s : State) (slot : Half) (ctx : Context) (bb n1 n2 : Word), s.slots[slot.toNat]? = some ctx →
    ctx.variant ≠ .none → (bufferOf bb (n1 + n2)).valid s.cfg = true →
    (n1 + n2).toNat = n1.toNat + n2.toNat → (bb + n1).toNat = bb.toNat + n1.toNat →
    n1.toNat % 4 = 0 → n2.toNat % 4 = 0 →
    ∃ t u, exec (.cipherCrypt 0 slot bb n1 0) s = .next t ∧ exec (.cipherCrypt 0 slot (bb + n1) n2 0) t = .next u ∧
      exec (.cipherCrypt 0 slot bb (n1 + n2) 0) s = .next u

/-! ### The machine -/

/-- R43: the values after reset. -/
def Obligations.ResetValues : Prop :=
  State.reset.status = 0 ∧ State.reset.result = 0 ∧ State.reset.job = none ∧
    ∀ c ∈ State.reset.slots, c.variant = .none ∧ c.cursor = 0 ∧ c.seed0 = 0 ∧
      c.pcRing = List.replicate 56 0 ∧ c.gcRing = List.replicate 521 0

/-- R220: the host's reset sets every slot, `STATUS` and `RESULT` to R43's values, leaves no per-command state, and does
not change `HostMem`. -/
def Obligations.HostResetKeepsMemory : Prop :=
  ∀ s : State, (hostReset s).mem = s.mem ∧ (hostReset s).nCtx = s.nCtx ∧ (hostReset s).status = 0 ∧
    (hostReset s).result = 0 ∧ (hostReset s).job = none ∧
    ∀ c ∈ (hostReset s).slots, c.variant = .none ∧ c.cursor = 0 ∧ c.seed0 = 0 ∧
      c.pcRing = List.replicate 56 0 ∧ c.gcRing = List.replicate 521 0

/-- R40, R6, R31-R33, R21-R24: the invariant holds after reset, with the number of slots and the configuration that log 2
and log 3 choose. -/
def Obligations.ResetMeetsInvariant : Prop := State.reset.Inv

/-- R21-R24, R31-R33, R200: every step keeps the invariant: memory stays in canonical form, ring sizes, cursors, `STATUS`
and the command in progress stay in their ranges. -/
def Obligations.StepKeepsInvariant : Prop :=
  ∀ s t : State, s.Inv → step s = .next t → t.Inv

/-- R42, R30: no step changes the configuration or the number of slots. -/
def Obligations.StepKeepsConfiguration : Prop :=
  ∀ s t : State, step s = .next t → t.cfg = s.cfg ∧ t.nCtx = s.nCtx

/-- R8: a command is one step: a step from a state with no command in progress ends in such a state. -/
def Obligations.CommandsAreAtomic : Prop :=
  ∀ s t : State, s.job = none → step s = .next t → t.job = none

/-- R134, R239: every command ends: between commands no step faults, and no token is run outside a walk. The spec marks
termination as its inference (R134, R239). -/
def Obligations.CommandsAlwaysEnd : Prop :=
  ∀ s : State, s.job = none → (∀ r, step s ≠ .fault r) ∧ step s ≠ .refused .noDecodeInProgress

/-- R12, R55: a word written and read back is the same word, its lowest byte at the lowest address; the bytes around it
keep their values. -/
def Obligations.WordsAreLittleEndian : Prop :=
  ∀ (m : Memory) (a : Nat) (w : Word), m.wf →
    (m.writeWord a w).readWord a = w ∧
    (∀ k, k < 4 → (m.writeWord a w).read (a + k) = w.extractLsb' (8 * k) 8) ∧
    sameOutside { base := a, len := 4 } m (m.writeWord a w)
end

