-- ==== Sys2Proof/Laws/Memory.lean ====
section
/-! SUPPORT. `HostMem`: read after write, the canonical form, and what each bulk operation stores. -/

namespace Sys2Proof.Machine

/-! ### Reads -/

@[simp] theorem Memory.read_nil (a : Nat) : Memory.read [] a = blankByte := rfl

theorem Memory.read_cons (k : Nat) (v : Byte) (m : Memory) (a : Nat) :
    Memory.read ((k, v) :: m) a = if k = a then v else Memory.read m a := rfl

/-- An address below every listed one is unlisted. -/
theorem Memory.read_of_lt {m : Memory} {a : Nat} (h : ∀ p ∈ m, a < p.1) : m.read a = blankByte := by
  induction m with
  | nil => rfl
  | cons p m ih =>
    have hp := h p (by simp)
    rw [Memory.read_cons, if_neg (by omega), ih fun q hq => h q (by simp [hq])]

theorem Memory.read_cell_append (a : Nat) (v : Byte) (m : Memory) (b : Nat) :
    Memory.read (Memory.cell a v ++ m) b = if v ≠ blankByte ∧ a = b then v else m.read b := by
  unfold Memory.cell
  split <;> rename_i hv <;> simp [Memory.read_cons, hv]

/-! ### Canonical form -/

theorem Memory.wf_nil : Memory.wf [] := by simp [Memory.wf]

theorem Memory.wf_cons {k : Nat} {v : Byte} {m : Memory} :
    Memory.wf ((k, v) :: m) ↔ (∀ p ∈ m, k < p.1) ∧ v ≠ blankByte ∧ m.wf := by
  simp only [Memory.wf, List.pairwise_cons, List.forall_mem_cons]; tauto

theorem Memory.mem_write {m : Memory} {a : Nat} {v : Byte} {p : Host.Cell} (h : p ∈ m.write a v) :
    p.1 = a ∨ p ∈ m := by
  induction m with
  | nil =>
    unfold Memory.write Memory.cell at h
    split at h <;> simp_all
  | cons q m ih =>
    unfold Memory.write at h
    split at h
    · rcases List.mem_cons.1 h with rfl | h
      · simp
      · rcases ih h with h | h <;> simp [h]
    · rcases List.mem_append.1 h with h | h
      · unfold Memory.cell at h
        split at h <;> simp_all
      · split at h <;> simp_all

theorem Memory.cell_append_wf {a : Nat} {v : Byte} {m : Memory} (h : m.wf) (ha : ∀ p ∈ m, a < p.1) :
    Memory.wf (Memory.cell a v ++ m) := by
  unfold Memory.cell
  split
  · simpa using h
  · rename_i hv
    exact Memory.wf_cons.2 ⟨ha, hv, h⟩

/-- A write keeps the canonical form. -/
theorem Memory.write_wf {m : Memory} (h : m.wf) (a : Nat) (v : Byte) : (m.write a v).wf := by
  induction m with
  | nil => simpa [Memory.write] using Memory.cell_append_wf (a := a) (v := v) Memory.wf_nil (by simp)
  | cons p m ih =>
    obtain ⟨k, w⟩ := p
    obtain ⟨hk, hw, hm⟩ := Memory.wf_cons.1 h
    unfold Memory.write
    split
    · refine Memory.wf_cons.2 ⟨fun q hq => ?_, hw, ih hm⟩
      rcases Memory.mem_write hq with e | e
      · omega
      · exact hk q e
    · split
      · subst k; exact Memory.cell_append_wf hm hk
      · refine Memory.cell_append_wf h fun q hq => ?_
        rcases List.mem_cons.1 hq with rfl | hq
        · simp; omega
        · have := hk q hq; omega

/-- A read after a write to another address. -/
theorem Memory.read_write_ne (m : Memory) {a b : Nat} (v : Byte) (h : a ≠ b) : (m.write a v).read b = m.read b := by
  induction m with
  | nil => unfold Memory.write Memory.cell; split <;> simp [Memory.read_cons, h]
  | cons p m ih =>
    obtain ⟨k, w⟩ := p
    unfold Memory.write
    split
    · simp [Memory.read_cons, ih]
    · rw [Memory.read_cell_append, if_neg (by tauto)]
      split
      · subst k; rw [Memory.read_cons, if_neg h]
      · rfl

/-- A read after a write to the same address. -/
theorem Memory.read_write_self {m : Memory} (h : m.wf) (a : Nat) (v : Byte) : (m.write a v).read a = v := by
  induction m with
  | nil => unfold Memory.write Memory.cell; split <;> simp_all [Memory.read_cons]
  | cons p m ih =>
    obtain ⟨k, w⟩ := p
    obtain ⟨hk, -, hm⟩ := Memory.wf_cons.1 h
    unfold Memory.write
    split
    · rw [Memory.read_cons, if_neg (by omega), ih hm]
    · rw [Memory.read_cell_append]
      by_cases hv : v = blankByte
      · subst hv
        simp only [ne_eq, not_true_eq_false, false_and, if_false]
        split
        · subst k; exact Memory.read_of_lt hk
        · refine Memory.read_of_lt fun q hq => ?_
          rcases List.mem_cons.1 hq with rfl | hq
          · simp; omega
          · have := hk q hq; omega
      · simp [hv]

theorem Memory.read_write {m : Memory} (h : m.wf) (a b : Nat) (v : Byte) :
    (m.write a v).read b = if a = b then v else m.read b := by
  split
  · rename_i e; subst e; exact Memory.read_write_self h a v
  · rename_i e; exact Memory.read_write_ne m v e

/-- Equal memories are equal lists. -/
theorem Memory.ext_of_read {m m' : Memory} (h : m.wf) (h' : m'.wf) (e : ∀ a, m.read a = m'.read a) : m = m' := by
  induction m generalizing m' with
  | nil =>
    cases m' with
    | nil => rfl
    | cons q m' =>
      obtain ⟨k', v'⟩ := q
      have := e k'
      simp [Memory.read_cons] at this
      exact absurd this.symm (Memory.wf_cons.1 h').2.1
  | cons p m ih =>
    obtain ⟨k, v⟩ := p
    obtain ⟨hk, hv, hm⟩ := Memory.wf_cons.1 h
    cases m' with
    | nil =>
      have := e k
      simp [Memory.read_cons] at this
      exact absurd this hv
    | cons q m' =>
      obtain ⟨k', v'⟩ := q
      obtain ⟨hk', hv', hm'⟩ := Memory.wf_cons.1 h'
      have hkk : k = k' := by
        rcases Nat.lt_trichotomy k k' with l | l | l
        · have := e k
          rw [Memory.read_cons, if_pos rfl, Memory.read_cons, if_neg (by omega),
            Memory.read_of_lt fun q hq => by have := hk' q hq; omega] at this
          exact absurd this hv
        · exact l
        · have := e k'
          rw [Memory.read_cons, if_neg (by omega), Memory.read_cons, if_pos rfl,
            Memory.read_of_lt fun q hq => by have := hk q hq; omega] at this
          exact absurd this.symm hv'
      subst hkk
      have hvv : v = v' := by simpa [Memory.read_cons] using e k
      subst hvv
      congr 1
      refine ih hm hm' fun a => ?_
      by_cases ha : k = a
      · subst ha
        rw [Memory.read_of_lt hk, Memory.read_of_lt hk']
      · simpa [Memory.read_cons, ha] using e a

/-! ### Bulk operations -/

@[simp] theorem Memory.readBytes_length (m : Memory) (base n : Nat) : (m.readBytes base n).length = n := by
  simp [Memory.readBytes]

@[simp] theorem Memory.readBytes_getElem (m : Memory) (base n i : Nat) (h : i < (m.readBytes base n).length) :
    (m.readBytes base n)[i] = m.read (base + i) := by
  simp [Memory.readBytes]

theorem Memory.writeBytes_wf {m : Memory} (h : m.wf) (base : Nat) (bs : List Byte) : (m.writeBytes base bs).wf := by
  induction bs generalizing m base with
  | nil => exact h
  | cons b bs ih => exact ih (Memory.write_wf h base b) (base + 1)

/-- Bytes outside `base .. base + bs.length - 1` read as before. -/
theorem Memory.writeBytes_read_outside (m : Memory) (base : Nat) (bs : List Byte) {a : Nat}
    (h : ¬ (base ≤ a ∧ a < base + bs.length)) : (m.writeBytes base bs).read a = m.read a := by
  induction bs generalizing m base with
  | nil => rfl
  | cons b bs ih =>
    simp only [List.length_cons] at h
    unfold Memory.writeBytes
    rw [ih (m.write base b) (base + 1) (by omega), Memory.read_write_ne m b (by omega)]

/-- Byte `i` of `bs` is stored at `base + i`. -/
theorem Memory.writeBytes_read_inside {m : Memory} (h : m.wf) (base : Nat) (bs : List Byte) {i : Nat}
    (hi : i < bs.length) : (m.writeBytes base bs).read (base + i) = bs[i] := by
  induction bs generalizing m base i with
  | nil => simp at hi
  | cons b bs ih =>
    unfold Memory.writeBytes
    cases i with
    | zero =>
      rw [Memory.writeBytes_read_outside _ _ _ (by omega)]
      simpa using Memory.read_write_self h base b
    | succ i =>
      have := ih (Memory.write_wf h base b) (base + 1) (i := i) (by simpa using hi)
      rw [show base + (i + 1) = base + 1 + i by omega]
      simpa using this

theorem Memory.readBytes_writeBytes {m : Memory} (h : m.wf) (base : Nat) (bs : List Byte) :
    (m.writeBytes base bs).readBytes base bs.length = bs := by
  refine List.ext_getElem (by simp) fun i h1 h2 => ?_
  rw [Memory.readBytes_getElem, Memory.writeBytes_read_inside h base bs h2]

theorem Memory.copyBytes_wf {m : Memory} (h : m.wf) (source target n : Nat) : (m.copyBytes source target n).wf := by
  induction n generalizing m source target with
  | zero => exact h
  | succ n ih => exact ih (Memory.write_wf h _ _) _ _

/-- A copy changes only the `n` bytes from `target`. -/
theorem Memory.copyBytes_read_outside (m : Memory) (source target n : Nat) {a : Nat}
    (h : ¬ (target ≤ a ∧ a < target + n)) : (m.copyBytes source target n).read a = m.read a := by
  induction n generalizing m source target with
  | zero => rfl
  | succ n ih =>
    unfold Memory.copyBytes
    rw [ih _ _ _ (by omega), Memory.read_write_ne m _ (by omega)]

theorem Memory.writeWord_wf {m : Memory} (h : m.wf) (a : Nat) (w : Word) : (m.writeWord a w).wf :=
  Memory.writeBytes_wf h a _

theorem Memory.writeWord_read_outside (m : Memory) (a : Nat) (w : Word) {b : Nat} (h : ¬ (a ≤ b ∧ b < a + 4)) :
    (m.writeWord a w).read b = m.read b :=
  Memory.writeBytes_read_outside m a _ (by simpa [bytesLE32] using h)

/-- The one pass over a transform's buffer changes only that buffer. -/
theorem transformWords_read_outside (next : Context → Word × Context) (n a : Nat) (m : Memory) (c : Context) {b : Nat}
    (h : ¬ (a ≤ b ∧ b < a + 4 * n)) : (transformWords next n a m c).1.read b = m.read b := by
  induction n generalizing a m c with
  | zero => rfl
  | succ n ih =>
    unfold transformWords
    rw [ih _ _ _ (by omega), Memory.writeWord_read_outside _ _ _ (by omega)]

theorem transformWords_wf (next : Context → Word × Context) (n a : Nat) {m : Memory} (h : m.wf) (c : Context) :
    (transformWords next n a m c).1.wf := by
  induction n generalizing a m c with
  | zero => exact h
  | succ n ih => exact ih _ (Memory.writeWord_wf h _ _) _

end Sys2Proof.Machine
end

