-- ==== Sys2Proof/Laws/State.lean ====
section
/-! SUPPORT. One lemma per field per update of `State`, true by `rfl`, so that no proof unfolds an update. -/

namespace Sys2Proof.Machine

@[simp] theorem State.withMem_cfg (s : State) (m : Memory) : (s.withMem m).cfg = s.cfg := rfl
@[simp] theorem State.withMem_mem (s : State) (m : Memory) : (s.withMem m).mem = m := rfl
@[simp] theorem State.withMem_slots (s : State) (m : Memory) : (s.withMem m).slots = s.slots := rfl
@[simp] theorem State.withMem_status (s : State) (m : Memory) : (s.withMem m).status = s.status := rfl
@[simp] theorem State.withMem_result (s : State) (m : Memory) : (s.withMem m).result = s.result := rfl
@[simp] theorem State.withMem_job (s : State) (m : Memory) : (s.withMem m).job = s.job := rfl
@[simp] theorem State.withMem_port (s : State) (m : Memory) : (s.withMem m).port = s.port := rfl
@[simp] theorem State.withMem_freeCount (s : State) (m : Memory) : (s.withMem m).freeCount = s.freeCount := rfl

@[simp] theorem State.withSlots_cfg (s : State) (l : List Context) : (s.withSlots l).cfg = s.cfg := rfl
@[simp] theorem State.withSlots_mem (s : State) (l : List Context) : (s.withSlots l).mem = s.mem := rfl
@[simp] theorem State.withSlots_slots (s : State) (l : List Context) : (s.withSlots l).slots = l := rfl
@[simp] theorem State.withSlots_status (s : State) (l : List Context) : (s.withSlots l).status = s.status := rfl
@[simp] theorem State.withSlots_result (s : State) (l : List Context) : (s.withSlots l).result = s.result := rfl
@[simp] theorem State.withSlots_job (s : State) (l : List Context) : (s.withSlots l).job = s.job := rfl
@[simp] theorem State.withSlots_port (s : State) (l : List Context) : (s.withSlots l).port = s.port := rfl
@[simp] theorem State.withSlots_freeCount (s : State) (l : List Context) : (s.withSlots l).freeCount = s.freeCount := rfl

@[simp] theorem State.withJob_cfg (s : State) (j : Option Job) : (s.withJob j).cfg = s.cfg := rfl
@[simp] theorem State.withJob_mem (s : State) (j : Option Job) : (s.withJob j).mem = s.mem := rfl
@[simp] theorem State.withJob_slots (s : State) (j : Option Job) : (s.withJob j).slots = s.slots := rfl
@[simp] theorem State.withJob_status (s : State) (j : Option Job) : (s.withJob j).status = s.status := rfl
@[simp] theorem State.withJob_result (s : State) (j : Option Job) : (s.withJob j).result = s.result := rfl
@[simp] theorem State.withJob_job (s : State) (j : Option Job) : (s.withJob j).job = j := rfl
@[simp] theorem State.withJob_port (s : State) (j : Option Job) : (s.withJob j).port = s.port := rfl
@[simp] theorem State.withJob_freeCount (s : State) (j : Option Job) : (s.withJob j).freeCount = s.freeCount := rfl

@[simp] theorem State.withPort_cfg (s : State) (ws : List Word) : (s.withPort ws).cfg = s.cfg := rfl
@[simp] theorem State.withPort_mem (s : State) (ws : List Word) : (s.withPort ws).mem = s.mem := rfl
@[simp] theorem State.withPort_slots (s : State) (ws : List Word) : (s.withPort ws).slots = s.slots := rfl
@[simp] theorem State.withPort_status (s : State) (ws : List Word) : (s.withPort ws).status = s.status := rfl
@[simp] theorem State.withPort_result (s : State) (ws : List Word) : (s.withPort ws).result = s.result := rfl
@[simp] theorem State.withPort_job (s : State) (ws : List Word) : (s.withPort ws).job = s.job := rfl
@[simp] theorem State.withPort_port (s : State) (ws : List Word) : (s.withPort ws).port = ws := rfl
@[simp] theorem State.withPort_freeCount (s : State) (ws : List Word) : (s.withPort ws).freeCount = s.freeCount := rfl

@[simp] theorem State.withFreeCount_cfg (s : State) (n : Nat) : (s.withFreeCount n).cfg = s.cfg := rfl
@[simp] theorem State.withFreeCount_mem (s : State) (n : Nat) : (s.withFreeCount n).mem = s.mem := rfl
@[simp] theorem State.withFreeCount_slots (s : State) (n : Nat) : (s.withFreeCount n).slots = s.slots := rfl
@[simp] theorem State.withFreeCount_status (s : State) (n : Nat) : (s.withFreeCount n).status = s.status := rfl
@[simp] theorem State.withFreeCount_result (s : State) (n : Nat) : (s.withFreeCount n).result = s.result := rfl
@[simp] theorem State.withFreeCount_job (s : State) (n : Nat) : (s.withFreeCount n).job = s.job := rfl
@[simp] theorem State.withFreeCount_port (s : State) (n : Nat) : (s.withFreeCount n).port = s.port := rfl
@[simp] theorem State.withFreeCount_freeCount (s : State) (n : Nat) : (s.withFreeCount n).freeCount = n := rfl

@[simp] theorem State.withOutcome_cfg (s : State) (st : Byte) (w : Word) : (s.withOutcome st w).cfg = s.cfg := rfl
@[simp] theorem State.withOutcome_mem (s : State) (st : Byte) (w : Word) : (s.withOutcome st w).mem = s.mem := rfl
@[simp] theorem State.withOutcome_slots (s : State) (st : Byte) (w : Word) : (s.withOutcome st w).slots = s.slots := rfl
@[simp] theorem State.withOutcome_status (s : State) (st : Byte) (w : Word) : (s.withOutcome st w).status = st := rfl
@[simp] theorem State.withOutcome_result (s : State) (st : Byte) (w : Word) : (s.withOutcome st w).result = w := rfl
@[simp] theorem State.withOutcome_job (s : State) (st : Byte) (w : Word) : (s.withOutcome st w).job = s.job := rfl
@[simp] theorem State.withOutcome_port (s : State) (st : Byte) (w : Word) : (s.withOutcome st w).port = s.port := rfl
@[simp] theorem State.withOutcome_freeCount (s : State) (st : Byte) (w : Word) : (s.withOutcome st w).freeCount = s.freeCount := rfl

@[simp] theorem State.withSlot_cfg (s : State) (k : Nat) (c : Context) : (s.withSlot k c).cfg = s.cfg := rfl
@[simp] theorem State.withSlot_mem (s : State) (k : Nat) (c : Context) : (s.withSlot k c).mem = s.mem := rfl
@[simp] theorem State.withSlot_slots (s : State) (k : Nat) (c : Context) : (s.withSlot k c).slots = s.slots.set k c := rfl
@[simp] theorem State.withSlot_status (s : State) (k : Nat) (c : Context) : (s.withSlot k c).status = s.status := rfl
@[simp] theorem State.withSlot_result (s : State) (k : Nat) (c : Context) : (s.withSlot k c).result = s.result := rfl
@[simp] theorem State.withSlot_job (s : State) (k : Nat) (c : Context) : (s.withSlot k c).job = s.job := rfl
@[simp] theorem State.withSlot_port (s : State) (k : Nat) (c : Context) : (s.withSlot k c).port = s.port := rfl
@[simp] theorem State.withSlot_freeCount (s : State) (k : Nat) (c : Context) : (s.withSlot k c).freeCount = s.freeCount := rfl

@[simp] theorem State.finishOk_cfg (s : State) (w : Word) : (s.finishOk w).cfg = s.cfg := rfl
@[simp] theorem State.finishOk_mem (s : State) (w : Word) : (s.finishOk w).mem = s.mem := rfl
@[simp] theorem State.finishOk_slots (s : State) (w : Word) : (s.finishOk w).slots = s.slots := rfl
@[simp] theorem State.finishOk_status (s : State) (w : Word) : (s.finishOk w).status = statusOk := rfl
@[simp] theorem State.finishOk_result (s : State) (w : Word) : (s.finishOk w).result = w := rfl
@[simp] theorem State.finishOk_job (s : State) (w : Word) : (s.finishOk w).job = s.job := rfl
@[simp] theorem State.finishOk_port (s : State) (w : Word) : (s.finishOk w).port = s.port := rfl
@[simp] theorem State.finishOk_freeCount (s : State) (w : Word) : (s.finishOk w).freeCount = s.freeCount := rfl

@[simp] theorem State.finishError_cfg (s : State) (e : ErrorCode) : (s.finishError e).cfg = s.cfg := rfl
@[simp] theorem State.finishError_mem (s : State) (e : ErrorCode) : (s.finishError e).mem = s.mem := rfl
@[simp] theorem State.finishError_slots (s : State) (e : ErrorCode) : (s.finishError e).slots = s.slots := rfl
@[simp] theorem State.finishError_status (s : State) (e : ErrorCode) : (s.finishError e).status = statusOf e := rfl
@[simp] theorem State.finishError_result (s : State) (e : ErrorCode) : (s.finishError e).result = 0 := rfl
@[simp] theorem State.finishError_job (s : State) (e : ErrorCode) : (s.finishError e).job = s.job := rfl
@[simp] theorem State.finishError_port (s : State) (e : ErrorCode) : (s.finishError e).port = s.port := rfl
@[simp] theorem State.finishError_freeCount (s : State) (e : ErrorCode) : (s.finishError e).freeCount = s.freeCount := rfl

@[simp] theorem State.prsOk_cfg (s : State) (n : Nat) : (s.prsOk n).cfg = s.cfg := rfl
@[simp] theorem State.prsOk_mem (s : State) (n : Nat) : (s.prsOk n).mem = s.mem := rfl
@[simp] theorem State.prsOk_slots (s : State) (n : Nat) : (s.prsOk n).slots = s.slots := rfl
@[simp] theorem State.prsOk_status (s : State) (n : Nat) : (s.prsOk n).status = statusOk := rfl
@[simp] theorem State.prsOk_result (s : State) (n : Nat) : (s.prsOk n).result = lengthResult s.freeCount n := rfl
@[simp] theorem State.prsOk_job (s : State) (n : Nat) : (s.prsOk n).job = none := rfl
@[simp] theorem State.prsOk_port (s : State) (n : Nat) : (s.prsOk n).port = s.port := rfl
@[simp] theorem State.prsOk_freeCount (s : State) (n : Nat) : (s.prsOk n).freeCount = s.freeCount + lengthResultDraws n := rfl

@[simp] theorem State.unspecify_cfg (s : State) (d : Option Buffer) : (s.unspecify d).cfg = s.cfg := by cases d <;> rfl
@[simp] theorem State.unspecify_slots (s : State) (d : Option Buffer) : (s.unspecify d).slots = s.slots := by cases d <;> rfl
@[simp] theorem State.unspecify_status (s : State) (d : Option Buffer) : (s.unspecify d).status = s.status := by cases d <;> rfl
@[simp] theorem State.unspecify_result (s : State) (d : Option Buffer) : (s.unspecify d).result = s.result := by cases d <;> rfl
@[simp] theorem State.unspecify_job (s : State) (d : Option Buffer) : (s.unspecify d).job = s.job := by cases d <;> rfl
@[simp] theorem State.unspecify_port (s : State) (d : Option Buffer) : (s.unspecify d).port = s.port := by cases d <;> rfl
@[simp] theorem State.unspecify_none (s : State) : s.unspecify none = s := rfl
@[simp] theorem State.unspecify_some_mem (s : State) (d : Buffer) :
    (s.unspecify (some d)).mem = s.mem.writeBytes d.base (freeBytes s.freeCount d.len) := rfl
@[simp] theorem State.unspecify_some_freeCount (s : State) (d : Buffer) :
    (s.unspecify (some d)).freeCount = s.freeCount + d.len := rfl

@[simp] theorem State.prsError_cfg (s : State) (d : Option Buffer) (e : ErrorCode) :
    (s.prsError d e).cfg = s.cfg := by cases d <;> rfl
@[simp] theorem State.prsError_mem (s : State) (d : Option Buffer) (e : ErrorCode) :
    (s.prsError d e).mem = (s.unspecify d).mem := rfl
@[simp] theorem State.prsError_slots (s : State) (d : Option Buffer) (e : ErrorCode) :
    (s.prsError d e).slots = s.slots := by cases d <;> rfl
@[simp] theorem State.prsError_status (s : State) (d : Option Buffer) (e : ErrorCode) :
    (s.prsError d e).status = statusOf e := rfl
@[simp] theorem State.prsError_result (s : State) (d : Option Buffer) (e : ErrorCode) :
    (s.prsError d e).result = 0 := rfl
@[simp] theorem State.prsError_job (s : State) (d : Option Buffer) (e : ErrorCode) :
    (s.prsError d e).job = none := rfl
@[simp] theorem State.prsError_port (s : State) (d : Option Buffer) (e : ErrorCode) :
    (s.prsError d e).port = s.port := by cases d <;> rfl
@[simp] theorem State.prsError_freeCount (s : State) (d : Option Buffer) (e : ErrorCode) :
    (s.prsError d e).freeCount = (s.unspecify d).freeCount := rfl

@[simp] theorem hostReset_cfg (s : State) : (hostReset s).cfg = s.cfg := rfl
@[simp] theorem hostReset_mem (s : State) : (hostReset s).mem = s.mem := rfl
@[simp] theorem hostReset_slots (s : State) : (hostReset s).slots = List.replicate s.slots.length Context.reset := rfl
@[simp] theorem hostReset_status (s : State) : (hostReset s).status = 0 := rfl
@[simp] theorem hostReset_result (s : State) : (hostReset s).result = 0 := rfl
@[simp] theorem hostReset_job (s : State) : (hostReset s).job = none := rfl
@[simp] theorem hostReset_port (s : State) : (hostReset s).port = [] := rfl
@[simp] theorem hostReset_freeCount (s : State) : (hostReset s).freeCount = s.freeCount := rfl

@[simp] theorem State.nCtx_eq (s : State) : s.nCtx = s.slots.length := rfl

end Sys2Proof.Machine
end

