-- ==== Sys2Proof/Laws/Ops.lean ====
section
/-! SUPPORT. What each shared operation can answer, said once: the later proofs cite these instead of unfolding. -/

namespace Sys2Proof.Machine

/-! ### The checks commands share -/

theorem onSlot_next {slot : Half} {s t : State} {f : Nat → Context → Result} :
    onSlot slot s f = .next t ↔ ∃ ctx, s.slots[slot.toNat]? = some ctx ∧ f slot.toNat ctx = .next t := by
  unfold onSlot
  split <;> simp_all

theorem onSlot_some {slot : Half} {s : State} {ctx : Context} (h : s.slots[slot.toNat]? = some ctx)
    (f : Nat → Context → Result) : onSlot slot s f = f slot.toNat ctx := by
  unfold onSlot; rw [h]

theorem onSlot_none {slot : Half} {s : State} (h : s.slots.length ≤ slot.toNat) (f : Nat → Context → Result) :
    onSlot slot s f = .refused .badSlot := by
  unfold onSlot; rw [List.getElem?_eq_none h]

theorem onCipherSlot_next {var : Byte} {slot : Half} {s t : State} {f : Nat → Context → Result} :
    onCipherSlot var slot s f = .next t ↔
      var = 0 ∧ ∃ ctx, s.slots[slot.toNat]? = some ctx ∧ f slot.toNat ctx = .next t := by
  unfold onCipherSlot
  rw [onSlot_next]
  constructor
  · rintro ⟨ctx, h, e⟩
    split at e
    · cases e
    · exact ⟨by simp_all, ctx, h, e⟩
  · rintro ⟨rfl, ctx, h, e⟩
    exact ⟨ctx, h, by simpa using e⟩

theorem onCipherSlot_some {slot : Half} {s : State} {ctx : Context} (h : s.slots[slot.toNat]? = some ctx)
    (f : Nat → Context → Result) : onCipherSlot 0 slot s f = f slot.toNat ctx := by
  unfold onCipherSlot; rw [onSlot_some h]; simp

theorem onPrsFields_next {var : Byte} {slot : Half} {k : Result} {t : State} :
    onPrsFields var slot k = .next t ↔ var = 0 ∧ slot = 0 ∧ k = .next t := by
  unfold onPrsFields
  split
  · rename_i h
    constructor
    · intro e; cases e
    · rintro ⟨rfl, rfl, -⟩; simp at h
  · rename_i h
    push Not at h
    simp [h.1, h.2]

@[simp] theorem onPrsFields_zero (k : Result) : onPrsFields 0#8 0#16 k = k := by simp [onPrsFields]

theorem variantTag_pc {var : Byte} : variantTag var = .pc ↔ var = 0x00 := by
  unfold variantTag; split <;> [skip; split <;> [skip; split]] <;> simp_all

theorem variantTag_gc {var : Byte} : variantTag var = .gc ↔ var = 0x01 := by
  unfold variantTag; split <;> [skip; split <;> [skip; split]] <;> simp_all

theorem variantTag_blueBurst {var : Byte} : variantTag var = .blueBurst ↔ var = 0x02 := by
  unfold variantTag; split <;> [skip; split <;> [skip; split]] <;> simp_all

/-! ### Tokens -/

theorem onWalk_next {s t : State} {f : Walk → Result} :
    onWalk s f = .next t ↔ ∃ w, s.job = some (.decode w) ∧ w.valid s.cfg = true ∧ f w = .next t := by
  unfold onWalk
  split
  · rename_i w h
    split <;> simp_all
  · simp_all
  · simp_all

theorem onWalk_decode {s : State} {w : Walk} (h : s.job = some (.decode w)) (hv : w.valid s.cfg = true)
    (f : Walk → Result) : onWalk s f = f w := by
  unfold onWalk; rw [h]; simp [hv]

/-- What a copy can do (R130): end the command with one of the two errors, or produce `len` bytes. -/
theorem copyToken_next {distance : Int} {len : Nat} {s t : State} :
    copyToken distance len s = .next t ↔ ∃ w, s.job = some (.decode w) ∧ w.valid s.cfg = true ∧
      (((w.dc.dstPos : Int) + distance < 0 ∧ t = s.prsError w.dst .malformedCompressedStream) ∨
        (0 ≤ (w.dc.dstPos : Int) + distance ∧ w.hasRoom len = true ∧ t = s.copyOutput w distance len) ∨
        (0 ≤ (w.dc.dstPos : Int) + distance ∧ w.hasRoom len = false ∧
          t = s.prsError w.dst .destinationTooSmall)) := by
  unfold copyToken
  rw [onWalk_next]
  refine exists_congr fun w => and_congr_right fun _ => and_congr_right fun _ => ?_
  split
  · rename_i h
    constructor
    · intro e; cases e; exact .inl ⟨h, rfl⟩
    · rintro (⟨-, rfl⟩ | ⟨h', -⟩ | ⟨h', -⟩)
      · rfl
      · omega
      · omega
  · rename_i h
    cases hr : w.hasRoom len <;> simp <;> constructor <;> rintro ⟨⟩ <;> simp_all

theorem execLit_next {b : Byte} {s t : State} :
    execLit b s = .next t ↔ ∃ w, s.job = some (.decode w) ∧ w.valid s.cfg = true ∧
      ((w.hasRoom 1 = true ∧ t = s.putOutput w b) ∨
        (w.hasRoom 1 = false ∧ t = s.prsError w.dst .destinationTooSmall)) := by
  unfold execLit
  rw [onWalk_next]
  refine exists_congr fun w => and_congr_right fun _ => and_congr_right fun _ => ?_
  cases w.hasRoom 1 <;> simp [eq_comm]

theorem execEndStream_next {s t : State} :
    execEndStream s = .next t ↔ ∃ w, s.job = some (.decode w) ∧ w.valid s.cfg = true ∧ t = s.prsOk w.dc.dstPos := by
  unfold execEndStream
  rw [onWalk_next]
  refine exists_congr fun w => and_congr_right fun _ => and_congr_right fun _ => ?_
  constructor
  · intro e; cases e; rfl
  · rintro rfl; rfl

@[simp] theorem State.putOutput_job (s : State) (w : Walk) (b : Byte) :
    (s.putOutput w b).job = some (.decode (w.produced 1)) := rfl

@[simp] theorem State.copyOutput_job (s : State) (w : Walk) (distance : Int) (len : Nat) :
    (s.copyOutput w distance len).job = some (.decode (w.produced len)) := rfl

theorem State.putOutput_eq (s : State) (w : Walk) (b : Byte) :
    ∃ m, s.putOutput w b = (s.withMem m).withJob (some (.decode (w.produced 1))) ∧
      m = (match w.dst with | none => s.mem | some d => s.mem.write (d.base + w.dc.dstPos) b) := by
  unfold State.putOutput
  cases w.dst <;> exact ⟨_, rfl, rfl⟩

theorem State.copyOutput_eq (s : State) (w : Walk) (distance : Int) (len : Nat) :
    ∃ m, s.copyOutput w distance len = (s.withMem m).withJob (some (.decode (w.produced len))) ∧
      m = (match w.dst with
        | none => s.mem
        | some d => s.mem.copyBytes (d.base + ((w.dc.dstPos : Int) + distance).toNat) (d.base + w.dc.dstPos) len) := by
  unfold State.copyOutput
  cases w.dst <;> exact ⟨_, rfl, rfl⟩

/-! ### The walk and the step -/

/-- What one round of the decode loop can do (R122): end the command on an exhausted source, or run a token. -/
theorem walkStepWith_next {run : Instr → State → Result} {s t : State} :
    walkStepWith run s = .next t ↔ ∃ w, s.job = some (.decode w) ∧ w.valid s.cfg = true ∧
      ((∃ e, decodeToken (w.source s.mem) w.dc = .error e ∧ t = s.prsError w.dst .malformedCompressedStream) ∨
        (∃ i dc, decodeToken (w.source s.mem) w.dc = .ok (i, dc) ∧
          run i (s.withJob (some (.decode { w with dc := dc }))) = .next t)) := by
  unfold walkStepWith fetchToken
  rw [onWalk_next]
  refine exists_congr fun w => and_congr_right fun _ => and_congr_right fun _ => ?_
  cases decodeToken (w.source s.mem) w.dc with
  | error e => simp [eq_comm]
  | ok p => obtain ⟨i, dc⟩ := p; simp

/-- `decodeLoop` (R122), unrolled once. -/
theorem runWalk_next {n : Nat} {s t : State} :
    runWalk (n + 1) s = .next t ↔
      ∃ s', walkStep s = .next s' ∧ ((s'.job = none ∧ t = s') ∨ (s'.job ≠ none ∧ runWalk n s' = .next t)) := by
  rw [runWalk.eq_2]
  cases h : walkStep s with
  | next s' => by_cases hj : s'.job = none <;> simp [hj, eq_comm]
  | fault r => simp
  | refused r => simp

/-- What a whole walk keeps, if each of its rounds does. -/
theorem runWalk_keeps {P : State → Prop} (keep : ∀ s t, P s → walkStep s = .next t → P t) :
    ∀ {n : Nat} {s t : State}, P s → runWalk n s = .next t → P t
  | 0, _, _, _, h => by cases h
  | n + 1, s, t, hs, h => by
    obtain ⟨s', h1, ⟨-, rfl⟩ | ⟨-, h2⟩⟩ := runWalk_next.1 h
    · exact keep _ _ hs h1
    · exact runWalk_keeps keep (keep _ _ hs h1) h2

/-- What the next command of the port can do (R84): nothing while it is not there, else its instruction. -/
theorem commandStepWith_next {run : Instr → State → Result} {s t : State} :
    commandStepWith run s = .next t ↔
      (fetchCommand s = .idle ∧ t = s) ∨ ∃ i s', fetchCommand s = .command i s' ∧ run i s' = .next t := by
  unfold commandStepWith
  cases h : fetchCommand s <;> simp [eq_comm]

theorem fetchCommand_command {s s' : State} {i : Instr} :
    fetchCommand s = .command i s' ↔ ∃ rest, decodeCommand s.port = .ok (i, rest) ∧ s' = s.withPort rest := by
  unfold fetchCommand
  cases h : decodeCommand s.port with
  | ok p => obtain ⟨j, rest⟩ := p; simp; tauto
  | error e => cases e <;> simp

/-- What a step can do. -/
theorem step_next {s t : State} :
    step s = .next t ↔
      (∃ w, s.job = some (.decode w) ∧ walkStepWith exec s = .next t) ∨
      (∃ src dst e, s.job = some (.compress src dst e) ∧ compressTick src dst e s = .next t) ∨
      (s.job = none ∧ commandStepWith exec s = .next t) := by
  unfold step
  cases h : s.job with
  | none => simp
  | some j => cases j <;> simp

/-! ### The compression -/

/-- The end of a compression drops its job, whatever it was (R22). -/
@[simp] theorem deliver_withJob (dst : Buffer) (e : Emitter) (s : State) (j : Option Job) :
    deliver dst e (s.withJob j) = deliver dst e s := by
  unfold deliver; split <;> rfl

/-- What one step of a compression can do: a step of R104, or the end of the command (R108, R110). -/
theorem compressTick_next {src dst : Buffer} {e : Emitter} {s t : State} :
    compressTick src dst e s = .next t ↔ src.valid s.cfg = true ∧ dst.valid s.cfg = true ∧
      ((e.cc.x < src.len ∧ t = s.withJob (some (.compress src dst
          (compressStep s.cfg.prsWindow (s.mem.readBytes src.base src.len) e)))) ∨
        (src.len ≤ e.cc.x ∧ t = deliver dst e.finish s)) := by
  unfold compressTick
  by_cases h : src.valid s.cfg = true ∧ dst.valid s.cfg = true
  · by_cases hx : e.cc.x < src.len
    · simp [h.1, h.2, hx, Nat.not_le.2 hx, eq_comm]
    · simp [h.1, h.2, hx, Nat.not_lt.1 hx, eq_comm]
  · rw [if_pos (by rw [← not_and_or]; exact h)]
    exact ⟨(fun e => by cases e), fun e => absurd ⟨e.1, e.2.1⟩ h⟩

/-- What `COPY -d, L` gives: the compressor's form, on R88's pairs only. -/
theorem copyPseudoToken_some {d len : Nat} {i : Instr} :
    copyPseudoToken d len = some i ↔ copyDefined d len ∧ i = copyForm d len := by
  unfold copyPseudoToken; split <;> simp_all [eq_comm]

/-! ### Loops -/

theorem repeated_succ {α : Type} (f : α → α) (n : Nat) (a : α) : repeated f (n + 1) a = f (repeated f n a) := by
  induction n generalizing a with
  | zero => rfl
  | succ n ih => rw [repeated, ih]; rfl

theorem repeated_add {α : Type} (f : α → α) (m n : Nat) (a : α) : repeated f (m + n) a = repeated f n (repeated f m a) := by
  induction m generalizing a with
  | zero => simp [repeated]
  | succ m ih => rw [Nat.add_right_comm, repeated, ih]; rfl

/-- A loop that stores into a ring keeps its size. -/
theorem foldl_length {f : List Word → Nat → List Word} (keep : ∀ r i, (f r i).length = r.length) (l : List Nat)
    (r : List Word) : (l.foldl f r).length = r.length := by
  induction l generalizing r with
  | nil => rfl
  | cons i l ih => rw [List.foldl_cons, ih, keep]

@[simp] theorem ringSet_length (r : List Word) (i : Nat) (w : Word) : (ringSet r i w).length = r.length := by
  simp [ringSet]

@[simp] theorem pcMix_length (r : List Word) : (pcMix r).length = r.length := by
  unfold pcMix
  rw [foldl_length (fun r i => by simp [pcMixLow]), foldl_length (fun r i => by simp [pcMixHigh])]

@[simp] theorem gcMixRing_length (r : List Word) : (gcMixRing r).length = r.length := by
  unfold gcMixRing
  rw [foldl_length (fun r i => by simp [gcMixStep])]

theorem ringGet_set_self {r : List Word} {i : Nat} (h : i < r.length) (w : Word) : ringGet (ringSet r i w) i = w := by
  simp [ringGet, ringSet, h]

theorem ringGet_set_ne (r : List Word) {i j : Nat} (h : i ≠ j) (w : Word) :
    ringGet (ringSet r i w) j = ringGet r j := by
  simp [ringGet, ringSet, List.getD, h]

end Sys2Proof.Machine
end

