-- ==== Sys2Proof/Laws/PerInstr.lean ====
section
/-! SUPPORT. What the encoding of every instruction has, one lemma per constructor (30_encoding.md R75, R76, R84, R85). -/

namespace Sys2Proof.Laws

/-- The shape of an encoding: a token is 1 control bit and 1 data byte, or 4 and 1, or 2 and 2 or 3 (R75), and has no
words; a command is its command word and 0 to 4 operand words (R85), under 8 bits of code, 8 of `VAR`, 16 of `SLOT` (R84),
and has no bits or bytes in a stream. -/
def EncodingShape.Statement (i : Instr) : Prop :=
  (i.isToken = true → commandWords i = [] ∧
    ((controlBits i).length, (dataBytes i).length) ∈ [(1, 1), (4, 1), (2, 2), (2, 3)]) ∧
  (i.isToken = false → controlBits i = [] ∧ dataBytes i = [] ∧
    ∃ cw, (commandWords i).head? = some cw ∧ (commandWords i).length = operandCount (cwOp cw) + 1)

theorem EncodingShape.endStream : EncodingShape.Statement .endStream := by
  simp [EncodingShape.Statement, Instr.isToken, commandWords, controlBits, dataBytes]

theorem EncodingShape.lcopyt (q : BitVec 13) (b2 : Byte) : EncodingShape.Statement (.lcopyt q b2) := by
  simp [EncodingShape.Statement, Instr.isToken, commandWords, controlBits, dataBytes]

theorem EncodingShape.lcopyh (c : BitVec 3) (q : BitVec 13) : EncodingShape.Statement (.lcopyh c q) := by
  simp [EncodingShape.Statement, Instr.isToken, commandWords, controlBits, dataBytes]

theorem EncodingShape.scopy (l : BitVec 2) (d8 : Byte) : EncodingShape.Statement (.scopy l d8) := by
  simp [EncodingShape.Statement, Instr.isToken, commandWords, controlBits, dataBytes]

theorem EncodingShape.lit (b : Byte) : EncodingShape.Statement (.lit b) := by
  simp [EncodingShape.Statement, Instr.isToken, commandWords, controlBits, dataBytes]

/-- The command code is read back from the command word (R84). -/
theorem cwOp_commandWord (op var : Byte) (slot : Half) : cwOp (commandWord op var slot) = op := by
  refine BitVec.eq_of_getLsbD_eq fun i hi => ?_
  have h : i < 32 := by omega
  simp [cwOp, commandWord, hi, h]
  omega

theorem EncodingShape.prsCompress (var : Byte) (slot : Half) (sb sl db dc : Word) :
    EncodingShape.Statement (.prsCompress var slot sb sl db dc) := by
  simp [EncodingShape.Statement, Instr.isToken, commandWords, controlBits, dataBytes, cwOp_commandWord, operandCount]

theorem EncodingShape.prsDecompress (var : Byte) (slot : Half) (sb sl db dc : Word) :
    EncodingShape.Statement (.prsDecompress var slot sb sl db dc) := by
  simp [EncodingShape.Statement, Instr.isToken, commandWords, controlBits, dataBytes, cwOp_commandWord, operandCount]

theorem EncodingShape.prsSize (var : Byte) (slot : Half) (sb sl : Word) :
    EncodingShape.Statement (.prsSize var slot sb sl) := by
  simp [EncodingShape.Statement, Instr.isToken, commandWords, controlBits, dataBytes, cwOp_commandWord, operandCount]

theorem EncodingShape.cipherCreateKeys (var : Byte) (slot : Half) (seed : Word) :
    EncodingShape.Statement (.cipherCreateKeys var slot seed) := by
  simp [EncodingShape.Statement, Instr.isToken, commandWords, controlBits, dataBytes, cwOp_commandWord, operandCount]

theorem EncodingShape.cipherCrypt (var : Byte) (slot : Half) (bb bl flags : Word) :
    EncodingShape.Statement (.cipherCrypt var slot bb bl flags) := by
  simp [EncodingShape.Statement, Instr.isToken, commandWords, controlBits, dataBytes, cwOp_commandWord, operandCount]

theorem EncodingShape.cipherNextWord (var : Byte) (slot : Half) :
    EncodingShape.Statement (.cipherNextWord var slot) := by
  simp [EncodingShape.Statement, Instr.isToken, commandWords, controlBits, dataBytes, cwOp_commandWord, operandCount]

theorem EncodingShape.cipherRelease (var : Byte) (slot : Half) :
    EncodingShape.Statement (.cipherRelease var slot) := by
  simp [EncodingShape.Statement, Instr.isToken, commandWords, controlBits, dataBytes, cwOp_commandWord, operandCount]

end Sys2Proof.Laws
end

