-- ==== Sys2Proof/Tests/Slice0.lean ====
section
/-! SUPPORT. Tests on fixed values, expected results from 95_test_vectors.md, and for each statement that has hypotheses a
theorem `witness_<statement>` with concrete terms that meet them together. -/

namespace Sys2Proof.Tests

set_option Elab.async false

open Sys2Proof
open Sys2Proof.Machine

/-! ### Helpers -/

/-- Reset with bytes stored from 0x1000 on and the given slots. -/
def small (bytes : List Byte) (slots : List Context) : State :=
  { State.reset with mem := Memory.writeBytes [] 0x1000 bytes, slots := slots }

/-- A walk in progress over those bytes, `pos` bytes already produced. -/
def walking (bytes : List Byte) (dst : Option Buffer) (pos : Nat) : State :=
  (small bytes []).withJob (some (.decode
    { src := { base := 0x1000, len := bytes.length }, dst := dst, dc := { DecodeCursor.start with dstPos := pos } }))

/-- The walk that `walking` has in progress. -/
def walkOf (bytes : List Byte) (dst : Option Buffer) (pos : Nat) : Walk :=
  { src := { base := 0x1000, len := bytes.length }, dst := dst, dc := { DecodeCursor.start with dstPos := pos } }

/-- A context of the given variant and cursor, rings of zeros. -/
def plain (v : Variant) (cursor : Nat) : Context := { Context.reset with variant := v, cursor := cursor }

/-- One field of the next state, if there is one. -/
def after {α : Type} (r : Result) (f : State → α) : Option α :=
  match r with
  | .next t => some (f t)
  | .fault _ => none
  | .refused _ => none

/-- `n` bytes from `a`, with `STATUS` and `RESULT`. -/
def seen (a n : Nat) (t : State) : Byte × Word × List Byte := (t.status, t.result, t.mem.readBytes a n)

/-- The refusal, if it is one. -/
def refusal (r : Result) : Option Refusal :=
  match r with
  | .next _ => none
  | .fault _ => none
  | .refused x => some x

/-! ### Well-formedness: each check refuses one term -/

theorem test_wf_reservedV : ¬ (Instr.lcopyt 0 9).WellFormed := by decide
theorem test_wf_zeroLengthCode : ¬ (Instr.lcopyh 0 8182).WellFormed := by decide
theorem test_wf_varNotZero : ¬ (Instr.cipherRelease 1 0).WellFormed := by decide
theorem test_wf_slotNotZero : ¬ (Instr.prsSize 0 1 0x1000 4).WellFormed := by decide
theorem test_wf_flagsReserved : ¬ (Instr.cipherCrypt 0 0 0x1000 4 2).WellFormed := by decide
theorem test_wf_accepts : (Instr.lcopyt 8182 9).WellFormed ∧ (Instr.cipherCrypt 0 3 0x1000 4 1).WellFormed := by decide

/-! ### Decoding: words written out from R75, R76, R84, R85 -/

theorem test_decode_endStream : decode (.stream [0b00000010, 0x00, 0x00]) = .ok .endStream := by decide
theorem test_decode_lcopyt :
    decode (.stream [0b00000010, 0b10110000, 0b11111111, 0x09]) = .ok (.lcopyt 0b1111111110110 0x09) := by decide
theorem test_decode_lcopyh :
    decode (.stream [0b00000010, 0b10110111, 0b11111111]) = .ok (.lcopyh 0b111 0b1111111110110) := by decide
theorem test_decode_scopy : decode (.stream [0b00000100, 0xFC]) = .ok (.scopy 0b10 0xFC) := by decide
theorem test_decode_lit : decode (.stream [0b00000001, 0x41]) = .ok (.lit 0x41) := by decide
theorem test_decode_prsCompress :
    decode (.words [0x00000001, 0x1000, 8, 0x2000, 16]) = .ok (.prsCompress 0 0 0x1000 8 0x2000 16) := by decide
theorem test_decode_prsDecompress :
    decode (.words [0x00000002, 0x2000, 10, 0x3000, 8]) = .ok (.prsDecompress 0 0 0x2000 10 0x3000 8) := by decide
theorem test_decode_prsSize : decode (.words [0x00000003, 0x2000, 10]) = .ok (.prsSize 0 0 0x2000 10) := by decide
theorem test_decode_cipherCreateKeys :
    decode (.words [0x00010710, 0x00000001]) = .ok (.cipherCreateKeys 0x07 1 1) := by decide
theorem test_decode_cipherCrypt :
    decode (.words [0x00010011, 0x1000, 8, 1]) = .ok (.cipherCrypt 0 1 0x1000 8 1) := by decide
theorem test_decode_cipherNextWord : decode (.words [0x00010012]) = .ok (.cipherNextWord 0 1) := by decide
theorem test_decode_cipherRelease : decode (.words [0xABCD0013]) = .ok (.cipherRelease 0 0xABCD) := by decide

/-- A token's control bits may straddle two control bytes (R73, vector PRS-C11: `SCOPY -6, 3` after 7 literal bits). -/
theorem test_decode_straddle :
    decodeToken (byteSource [0x14, 0xFA]) { DecodeCursor.start with cbVal := 0x00, cbLeft := 1 } =
      .ok (.scopy 1 0xFA, { srcPos := 2, cbVal := 0x02, cbLeft := 5, dstPos := 0 }) := by decide

/-- An unassigned code (FAC-7), and a command whose operand words are missing. -/
theorem test_decode_rejects : decode (.words [0x00000004]) = .error (.unassignedOp 4) ∧
    decode (.words [0x00000003, 0x2000]) = .error (.missingOperands 3) ∧
    decode (.stream [0x02, 0x00]) = .error (.exhausted 2) := by decide

/-- The opcode table's numbering, and the step that runs a placed instruction. -/
theorem test_tableWord : decodeTableWord 18 0x00002 = some .endStream ∧
    decodeTableWord 24 0x3FEDE = some (.lcopyh 7 8182) ∧ decodeTableWord 32 0x00010012 = some (.cipherNextWord 0 1) := by
  decide

theorem test_fetchWord_token :
    after (step (State.reset.withFetchWord 18 0x00001)) (·.job.isSome) = some true ∧
    after (step (State.reset.withFetchWord 18 0x00002)) (fun t => (t.status, t.result)) = some (0, 8192) := by decide

theorem test_fetchWord_command : after (step (State.reset.withFetchWord 32 0x00010012)) (·.status) = some 4 := by decide

/-! ### The PRS tokens -/

theorem test_lit : after (exec (.lit 0x41) (walking [] (some ⟨0x2000, 4⟩) 3)) (fun t => t.mem.readBytes 0x2000 5) =
    some [0, 0, 0, 0x41, 0] := by decide

theorem test_lit_full : after (exec (.lit 0x41) (walking [] (some ⟨0x2000, 3⟩) 3)) (·.status) = some 0x03 := by decide

/-- The overlapping copy of SRC-1: distance -1, length 5. -/
theorem test_scopy_overlap :
    after (exec (.scopy 3 0xFF) ((walking [] (some ⟨0x2000, 6⟩) 1).withMem [(0x2000, 0x41)]))
      (fun t => t.mem.readBytes 0x2000 7) = some [0x41, 0x41, 0x41, 0x41, 0x41, 0x41, 0] := by decide

theorem test_scopy_before_start : after (exec (.scopy 0 0x00) (walking [] none 255)) (·.status) = some 0x02 ∧
    after (exec (.scopy 0 0x00) (walking [] none 256)) (·.job) = some (some (.decode (walkOf [] none 258))) := by decide

theorem test_lcopyh : after (exec (.lcopyh 7 8190) ((walking [] (some ⟨0x2000, 16⟩) 2).withMem [(0x2000, 1), (0x2001, 2)]))
    (fun t => t.mem.readBytes 0x2000 12) = some [1, 2, 1, 2, 1, 2, 1, 2, 1, 2, 1, 0] := by decide

theorem test_lcopyt : after (exec (.lcopyt 8191 0) ((walking [] (some ⟨0x2000, 2⟩) 1).withMem [(0x2000, 0x41)]))
    (fun t => t.mem.readBytes 0x2000 2) = some [0x41, 0x41] := by decide

theorem test_lcopyt_longest : after (exec (.lcopyt 0 0xFF) (walking [] none 8192)) (·.job) =
    some (some (.decode (walkOf [] none 8448))) := by decide

theorem test_endStream : after (exec .endStream (walking [] none 7)) (fun t => (t.status, t.result, t.job)) =
    some (0, 7, none) := by decide

/-! ### The PRS commands -/

/-- PRS-C5 with `dstCap = 10` and `dstCap = 9`. -/
theorem test_prsCompress : after (exec (.prsCompress 0 0 0x1000 8 0x2000 10)
    (small [0x61, 0x62, 0x63, 0x64, 0x61, 0x62, 0x63, 0x64] [])) (seen 0x2000 11) =
    some (0, 10, [0x1F, 0x61, 0x62, 0x63, 0x64, 0x61, 0x05, 0xFC, 0x00, 0x00, 0x00]) := by decide +kernel

theorem test_prsCompress_small : after (exec (.prsCompress 0 0 0x1000 8 0x2000 9)
    (small [0x61, 0x62, 0x63, 0x64, 0x61, 0x62, 0x63, 0x64] [])) (fun t => (t.status, t.result)) = some (3, 0) := by
  decide +kernel

/-- PRS-D3: a copy of length 1. -/
theorem test_prsDecompress : after (exec (.prsDecompress 0 0 0x1000 7 0x2000 2)
    (small [0x15, 0x41, 0xF8, 0xFF, 0x00, 0x00, 0x00] [])) (seen 0x2000 3) = some (0, 2, [0x41, 0x41, 0]) := by
  decide +kernel

/-- PRS-D5: a reference before the start. -/
theorem test_prsDecompress_malformed : after (exec (.prsDecompress 0 0 0x1000 6 0x2000 8)
    (small [0x83, 0x41, 0x42, 0x00, 0x00, 0x00] [])) (fun t => (t.status, t.result)) = some (2, 0) := by decide +kernel

/-- PRS-D4: bytes after `END` are ignored. PRS-D10: the stream ends inside `END`. -/
theorem test_prsSize : after (exec (.prsSize 0 0 0x1000 5) (small [0x59, 0x41, 0xFF, 0x00, 0x00] []))
    (fun t => (t.status, t.result)) = some (0, 6) ∧
    after (exec (.prsSize 0 0 0x1000 3) (small [0x05, 0x41, 0x00] [])) (fun t => (t.status, t.result)) = some (2, 0) := by
  decide +kernel

/-! ### The cipher commands -/

/-- PC-K1 and PC-S2: the state after key setup, and the first word. -/
theorem test_cipherCreateKeys_pc :
    after (exec (.cipherCreateKeys 0x00 0 1) (small [] [plain .none 0]))
      (fun t => t.slots.map fun c => (c.variant, c.cursor, c.pcRing.take 6, ringGet c.pcRing 55)) =
    some [(.pc, 55, [0x00000001, 0x44A7EC15, 0x871FE8D4, 0x58068AF9, 0x837B30BB, 0xF057201D], 0x555CF8F7)] := by
  decide +kernel

/-- GC-S1: the base words 0 and 16 and the overwrite. -/
theorem test_gcBaseWords : ringGet (gcBaseWords 1) 0 = 0x3B98D7EA ∧ ringGet (gcBaseWords 1) 16 = 0xAD3D9C9C ∧
    ringGet (gcOverwrite (gcBaseWords 1)) 16 = 0x6F0DD971 := by decide +kernel

/-- PC-T2: one buffer under seed 1. -/
theorem test_cipherCrypt : after (exec (.cipherCrypt 0 0 0x1000 8 0)
    (small [0x61, 0x62, 0x63, 0x64, 0x65, 0x66, 0x67, 0x68] [pcCreateKeys defaultConfig 1 Context.reset]))
    (fun t => t.mem.readBytes 0x1000 8) = some [0x17, 0xC9, 0xBF, 0xA2, 0x86, 0x3A, 0x5B, 0x6E] := by decide +kernel

/-- FAC-4: a length that is not a multiple of 4 is refused. -/
theorem test_cipherCrypt_badLength : refusal (exec (.cipherCrypt 0 0 0x1000 6 0) (small [] [plain .pc 55])) =
    some .badLength := by decide +kernel

theorem test_cipherNextWord : after (exec (.cipherNextWord 0 0) (small [] [pcCreateKeys defaultConfig 1 Context.reset]))
    (fun t => (t.result, t.slots.map (·.cursor))) = some (0xC6DCAB76, [2]) := by decide +kernel

/-- GC-S1: the first word of the fill. -/
theorem test_gcFill : ringGet (gcFillStep 1 (gcOverwrite (gcBaseWords 1 ++ List.replicate 504 0)) 17) 17 = 0x9A6268FB := by
  decide +kernel

/-- One GC mix by hand (R173): slot 0 takes slot 489, slot 32 the new slot 0, slot 64 the new slot 32. -/
theorem test_gcMix :
    let r := gcMixRing (ringSet (ringSet (List.replicate 521 0) 0 0x0F) 489 0xF0)
    (ringGet r 0, ringGet r 31, ringGet r 32, ringGet r 64) = (0xFF, 0, 0xFF, 0xFF) := by decide +kernel

theorem test_cipherRelease : after (exec (.cipherRelease 0 0) (small [] [plain .gc 520]))
    (fun t => t.slots.map fun c => (c.variant, c.cursor)) = some [(.none, 520)] := by decide +kernel

/-- R87's text: its own form for a token; addresses in hexadecimal and lengths in decimal (log 18). -/
theorem test_syntaxText : syntaxText (.scopy 3 0xFF) = "SCOPY -1, 5" ∧
    syntaxText (.prsSize 0 0 0x2000 10) = "PRS.SIZE 0x00002000, 10" ∧
    syntaxText (.cipherCreateKeys 0x02 0 1) = "CIPHER.CREATE_KEYS slot=0, var=0x02, seed=0x00000001" := by decide +kernel

/-- R88: defined at the ends of its ranges, and nowhere outside them. -/
theorem test_copyPseudoToken : copyPseudoToken 255 2 = some (.scopy 0 0x01) ∧ copyPseudoToken 256 2 = none ∧
    copyPseudoToken 3 257 = none ∧ copyPseudoToken 8193 3 = none ∧ copyPseudoToken 0 3 = none := by decide +kernel

end Sys2Proof.Tests
end

