-- ==== Sys2Proof/Tests/Witness.lean ====
section
/-! SUPPORT. For each statement that has hypotheses, a theorem `test_witness_<statement>`: concrete terms that meet them
together, for each clause, at the ends of its ranges. -/

namespace Sys2Proof.Tests

set_option Elab.async false

open Sys2Proof
open Sys2Proof.Machine

/-! ### Terms the witnesses share -/

/-- The stream of one byte `41` (PRS-C2). -/
def stream1 : List Byte := [0x05, 0x41, 0x00, 0x00]

/-- A stream with a copy before the start (PRS-D5). -/
def stream2 : List Byte := [0x83, 0x41, 0x42, 0x00, 0x00, 0x00]

/-- One slot, keyed or not, over 8 bytes. -/
def oneSlot (v : Variant) (cursor : Nat) : State :=
  small [0x61, 0x62, 0x63, 0x64, 0x65, 0x66, 0x67, 0x68] [plain v cursor]

/-- The same with a smaller `MAX_LEN`. -/
def shortBuffers : State := { small [] [] with cfg := { defaultConfig with maxLen := 16 } }

/-- A state with `ws` issued. -/
def issued (ws : List Word) : State := (small [] [plain .pc 55]).withPort ws

/-! ### Encoding and decoding -/

theorem test_witness_DecodeInvertsEncode :
    ∀ i ∈ [Instr.endStream, .lcopyt 1 0, .lcopyt 8191 0xFF, .lcopyh 1 0, .lcopyh 7 8191, .scopy 0 0, .scopy 3 0xFF,
      .lit 0, .prsSize 7 9 0 0], i.isToken = true → i.WellFormed := by decide

theorem test_witness_CommandWordsReadBack :
    decodeCommand [0x00010011, 0x1000, 8, 1, 0x00000012] = .ok (.cipherCrypt 0 1 0x1000 8 1, [0x00000012]) := by decide

theorem test_witness_DecodedTokenIsWellFormed :
    decodeToken (byteSource [0x01, 0x41]) DecodeCursor.start =
      .ok (.lit 0x41, { srcPos := 2, cbVal := 0, cbLeft := 7, dstPos := 0 }) ∧ DecodeCursor.start.cbLeft ≤ 8 := by decide

theorem test_witness_OperandBytesInvert :
    (∀ p ∈ ([(-8192, 3), (-8192, 9), (-1, 3), (-1, 9)] : List (Int × Nat)),
      -8192 ≤ p.1 ∧ p.1 ≤ -1 ∧ 3 ≤ p.2 ∧ p.2 ≤ 9) ∧
    (∀ p ∈ ([(-8192, 1), (-8192, 256), (-1, 1), (-1, 256)] : List (Int × Nat)),
      -8192 ≤ p.1 ∧ p.1 ≤ -1 ∧ 1 ≤ p.2 ∧ p.2 ≤ 256) ∧
    ∀ d ∈ ([-256, -1] : List Int), -256 ≤ d ∧ d ≤ -1 := by decide

/-! ### The step -/

theorem test_witness_StepRunsIssuedCommand : (issued [0x12, 0x13]).job = none ∧
    decodeCommand (issued [0x12, 0x13]).port = .ok (.cipherNextWord 0 0, [0x13]) := by decide

theorem test_witness_StepRunsStreamToken :
    (walking stream1 none 0).job = some (.decode (walkOf stream1 none 0)) ∧
    (walkOf stream1 none 0).valid (walking stream1 none 0).cfg = true ∧
    decodeToken ((walkOf stream1 none 0).source (walking stream1 none 0).mem) (walkOf stream1 none 0).dc =
      .ok (.lit 0x41, { srcPos := 2, cbVal := 0x02, cbLeft := 7, dstPos := 0 }) := by decide +kernel

theorem test_witness_ExhaustedStreamIsMalformed :
    (walking [] (some ⟨0x2000, 4⟩) 0).job = some (.decode (walkOf [] (some ⟨0x2000, 4⟩) 0)) ∧
    (walkOf [] (some ⟨0x2000, 4⟩) 0).valid (walking [] (some ⟨0x2000, 4⟩) 0).cfg = true ∧
    decodeToken ((walkOf [] (some ⟨0x2000, 4⟩) 0).source (walking [] (some ⟨0x2000, 4⟩) 0).mem)
      (walkOf [] (some ⟨0x2000, 4⟩) 0).dc = .error (.exhausted 0) := by decide +kernel

theorem test_witness_PortIdleOrUnassigned : ((issued []).job = none ∧ (issued []).port = []) ∧
    ((issued [0x14]).job = none ∧ (issued [0x14]).port = 0x14 :: []) ∧
    ([0x00, 0x04, 0x0F, 0x14, 0xFFFFFFFF] : List Word).all
      (fun cw => cwOp cw ∉ [0x01, 0x02, 0x03, 0x10, 0x11, 0x12, 0x13]) = true := by decide

/-- An empty source, and a destination that ends at the top of the address space. -/
theorem test_witness_DecodeCommandIsItsTokens :
    prsAccepted (small stream1 []) 0x1000 4 0xFFFFFFF0 16 ∧ prsAccepted (small stream1 []) 0x1000 0 0x1000 0 ∧
    sizeAccepted (small stream1 []) 0x1000 4 ∧ sizeAccepted (small stream1 []) 0 0xFFFFFFFF := by decide +kernel

theorem test_witness_CompressCommandIsItsSteps : prsAccepted (small [0x41] []) 0x1000 1 0x2000 4 ∧
    prsAccepted (small [0x41] []) 0x1000 1 0x2000 3 ∧ prsAccepted (small [0x41] []) 0x1000 0 0x1000 3 := by decide +kernel

/-! ### The PRS tokens -/

theorem test_witness_LitAppendsItsByte :
    ∀ dst ∈ [some ⟨0x2000, 4⟩, none], (walking stream1 dst 3).job = some (.decode (walkOf stream1 dst 3)) ∧
      (walkOf stream1 dst 3).valid (walking stream1 dst 3).cfg = true ∧ (walking stream1 dst 3).mem.wf ∧
      ∀ d ∈ (walkOf stream1 dst 3).dst, (walkOf stream1 dst 3).dc.dstPos + 1 ≤ d.len := by decide +kernel

theorem test_witness_CopyTokensRepeatOutput :
    (∀ p ∈ [(Instr.scopy 3 0xFF, (-1 : Int), 5), (.lcopyh 7 0, -8192, 9), (.lcopyt 8191 0xFF, -1, 256)],
      copyOperands p.1 = some (p.2.1, p.2.2)) ∧
    ∀ dst ∈ [some ⟨0x2000, 6⟩, none], (walking stream1 dst 1).job = some (.decode (walkOf stream1 dst 1)) ∧
      (walkOf stream1 dst 1).valid (walking stream1 dst 1).cfg = true ∧ (walking stream1 dst 1).mem.wf ∧
      0 ≤ ((walkOf stream1 dst 1).dc.dstPos : Int) + -1 ∧
      ∀ d ∈ (walkOf stream1 dst 1).dst, (walkOf stream1 dst 1).dc.dstPos + 5 ≤ d.len := by decide +kernel

theorem test_witness_EndStreamEndsCommand :
    (walking stream1 none 7).job = some (.decode (walkOf stream1 none 7)) ∧
    (walkOf stream1 none 7).valid (walking stream1 none 7).cfg = true ∧ (walkOf stream1 none 7).dc.dstPos < 2 ^ 32 := by
  decide +kernel

theorem test_witness_ReferenceBeforeStartIsMalformed :
    copyOperands (.scopy 0 0xFE) = some (-2, 2) ∧ copyOperands (.lcopyh 1 8190) = some (-2, 3) ∧
    copyOperands (.lcopyt 8190 0) = some (-2, 1) ∧
    ∀ dst ∈ [some ⟨0x2000, 6⟩, none], (walking stream1 dst 1).job = some (.decode (walkOf stream1 dst 1)) ∧
      (walkOf stream1 dst 1).valid (walking stream1 dst 1).cfg = true ∧
      ((walkOf stream1 dst 1).dc.dstPos : Int) + -2 < 0 := by decide +kernel

/-- A literal and a copy of length 5, one byte too many and just fitting. -/
theorem test_witness_OutputPastCapacityIsTooSmall :
    (walking [] (some ⟨0x2000, 6⟩) 6).job = some (.decode (walkOf [] (some ⟨0x2000, 6⟩) 6)) ∧
    (walkOf [] (some ⟨0x2000, 6⟩) 6).valid defaultConfig = true ∧ (walking [] (some ⟨0x2000, 6⟩) 6).cfg = defaultConfig ∧
    6 < (walkOf [] (some ⟨0x2000, 6⟩) 6).dc.dstPos + 1 ∧ (walkOf [] (some ⟨0x2000, 6⟩) 5).dc.dstPos + 1 = 6 ∧
    copyOperands (.scopy 3 0xFF) = some (-1, 5) ∧ 0 ≤ ((walkOf [] (some ⟨0x2000, 6⟩) 2).dc.dstPos : Int) + -1 ∧
    6 < (walkOf [] (some ⟨0x2000, 6⟩) 2).dc.dstPos + 5 ∧ (walkOf [] (some ⟨0x2000, 6⟩) 1).dc.dstPos + 5 = 6 := by
  decide +kernel

theorem test_witness_TokenNeedsDecodeWalk : (Instr.lit 0x41).isToken = true ∧ ∀ w, (small [] []).job ≠ some (.decode w) :=
  ⟨rfl, fun _ h => by cases h⟩

/-! ### The decompressor and the size probe -/

theorem test_witness_DecompressWritesPayload : prsAccepted (small stream1 []) 0x1000 4 0x1004 1 ∧
    (small stream1 []).mem.wf ∧ payload ((bufferOf 0x1000 4).bytes (small stream1 []).mem) = some [0x41] ∧
    ([0x41] : List Byte).length ≤ (1 : Word).toNat := by decide +kernel

theorem test_witness_DecompressFailsWithoutPayload :
    (prsAccepted (small stream1 []) 0x1000 4 0x2000 0 ∧ (small stream1 []).mem.wf ∧
      payload ((bufferOf 0x1000 4).bytes (small stream1 []).mem) = some [0x41] ∧
      (0 : Word).toNat < ([0x41] : List Byte).length) ∧
    (small stream2 []).mem.wf ∧ payload ((bufferOf 0x1000 6).bytes (small stream2 []).mem) = none ∧
    (prsAccepted (small stream2 []) 0x1000 6 0x2000 2 ∧
      (produced ((bufferOf 0x1000 6).bytes (small stream2 []).mem)).length ≤ (2 : Word).toNat) ∧
    (prsAccepted (small stream2 []) 0x1000 6 0x2000 1 ∧
      (1 : Word).toNat < (produced ((bufferOf 0x1000 6).bytes (small stream2 []).mem)).length) ∧
    prsAccepted (small stream2 []) 0x1000 6 0x2000 1536 ∧ 256 * (6 : Word).toNat ≤ (1536 : Word).toNat := by decide +kernel

theorem test_witness_SizeReportsPayloadLength :
    (sizeAccepted (small stream1 []) 0x1000 4 ∧
      payload ((bufferOf 0x1000 4).bytes (small stream1 []).mem) = some [0x41] ∧ ([0x41] : List Byte).length < 2 ^ 32) ∧
    sizeAccepted (small stream1 []) 0x1000 3 ∧
      payload ((bufferOf 0x1000 3).bytes (small stream1 []).mem) = none := by decide +kernel

/-- The probe gives `ok(1)` on the first, `MalformedCompressedStream` on the second. -/
theorem test_witness_ProbeAgreesWithDecompressor :
    prsAccepted (small stream1 []) 0x1000 4 0x2000 1 ∧ (small stream1 []).mem.wf ∧ (4 : Word).toNat < 2 ^ 24 ∧
    prsAccepted (small stream2 []) 0x1000 6 0x2000 8 ∧ (small stream2 []).mem.wf ∧ (6 : Word).toNat < 2 ^ 24 := by
  decide +kernel

theorem test_witness_PayloadLengthBound : payload stream1 = some [0x41] := by decide

/-! ### The compressor -/

/-- A capacity the stream of one byte exactly fills, and one byte less. -/
theorem test_witness_CompressWritesStream :
    (prsAccepted (small [0x41] []) 0x1000 1 0x2000 4 ∧ (small [0x41] []).mem.wf ∧
      (compressBytes (small [0x41] []).cfg.prsWindow ((bufferOf 0x1000 1).bytes (small [0x41] []).mem)).length ≤
        (4 : Word).toNat) ∧
    prsAccepted (small [0x41] []) 0x1000 1 0x2000 3 ∧
      (3 : Word).toNat <
        (compressBytes (small [0x41] []).cfg.prsWindow ((bufferOf 0x1000 1).bytes (small [0x41] []).mem)).length := by
  decide +kernel

theorem test_witness_CompressedLengthBound : ([1, 2, 3, 1, 2] : List Byte).length = 5 ∧
    (List.range 5).all (fun x => (bestMatch 8175 [1, 2, 3, 1, 2] x).1 < 3) = true := by decide

theorem test_witness_CompressedStreamRoundTrip : prsAccepted (small stream1 []) 0x1000 4 0x2000 1 ∧
    (small stream1 []).mem.wf ∧ (small stream1 []).cfg.prsWindow ≤ 8191 ∧
    (bufferOf 0x1000 4).bytes (small stream1 []).mem = compressBytes (small stream1 []).cfg.prsWindow [0x41] ∧
    ([0x41] : List Byte).length ≤ (1 : Word).toNat := by decide +kernel

theorem test_witness_MatchLengthIsLargest :
    (0 : Nat) ≤ 3 ∧ 3 ≤ ([1, 1, 1] : List Byte).length ∧ matchLen [9, 1, 2, 1, 2, 1] 3 1 = 2 := by decide

theorem test_witness_BestMatchIsLongestNearest : Candidate 8175 9 1 ∧ Candidate 8175 9 6 ∧ Candidate 3 9 6 ∧
    0 < (bestMatch 8175 [0, 1, 2, 3, 9, 1, 2, 3] 5).1 ∧ (bestMatch 8175 [0, 1, 2, 3, 9, 7] 5).1 = 0 := by decide

theorem test_witness_EmittedCopyIsEncodedForm :
    (∀ p ∈ [(1, 3), (255, 5), (256, 5), (255, 6), (8192, 9), (1, 10), (8191, 10), (8192, 256)],
      1 ≤ p.1 ∧ p.1 ≤ 8192 ∧ 3 ≤ p.2 ∧ p.2 ≤ 256) ∧
    ∀ p ∈ [(1, 2), (255, 2)], 1 ≤ p.1 ∧ p.1 ≤ 255 ∧ p.2 = 2 := by decide

theorem test_witness_CompressorAdvances :
    (Emitter.start.advanceTo 5).cc.x = 5 ∧ ([0, 1, 2, 3, 9, 1, 2, 3] : List Byte)[5]? = some 1 ∧
    (bestMatch 8175 [0, 1, 2, 3, 9, 1, 2, 3] 5).1 = 3 ∧ ([0, 1, 2, 3, 9, 1, 2] : List Byte)[5]? = some 1 ∧
    (bestMatch 8175 [0, 1, 2, 3, 9, 1, 2] 5).1 = 2 := by decide

/-! ### The cipher commands -/

theorem test_witness_CreateKeysKeysTheSlot : Variant.pc ≠ .none ∧ Variant.gc ≠ .none ∧
    (oneSlot .gc 5).slots[(0 : Half).toNat]? = some (plain .gc 5) := by decide +kernel

/-- A buffer of 8 bytes, one of none, and one that ends at the top of the address space. -/
theorem test_witness_CryptXorsKeystream : ∀ v ∈ [Variant.pc, .gc],
    (oneSlot v 55).slots[(0 : Half).toNat]? = some (plain v 55) ∧ (plain v 55).variant ≠ .none ∧
    cryptAccepted (oneSlot v 55) 0 0x1000 8 1 ∧ cryptAccepted (oneSlot v 55) 0 0x1001 0 0 ∧
    cryptAccepted (oneSlot v 55) 0 0xFFFFFFFC 4 0 ∧ (oneSlot v 55).mem.wf := by decide +kernel

theorem test_witness_NextWordDrawsOne : ∀ p ∈ [(Variant.pc, 1), (.pc, 54), (.pc, 55), (.gc, 0), (.gc, 519), (.gc, 520)],
    (oneSlot p.1 p.2).slots[(0 : Half).toNat]? = some (plain p.1 p.2) ∧ (plain p.1 p.2).variant ≠ .none ∧
    (plain p.1 p.2).cursor = p.2 := by decide +kernel

theorem test_witness_ReleaseDropsContext :
    (oneSlot .none 7).slots[(0 : Half).toNat]? = some (plain .none 7) := by decide +kernel

theorem test_witness_CipherErrorsChangeNothingElse :
    ((oneSlot .none 7).slots[(0 : Half).toNat]? = some (plain .none 7) ∧ (plain .none 7).variant = .none ∧
      cryptAccepted (oneSlot .none 7) 0 0x1000 8 0) ∧
    (0 : Half).toNat < (oneSlot .pc 55).nCtx ∧ ∀ var ∈ ([0x03, 0xFF] : List Byte), var ∉ [0x00, 0x01, 0x02] := by
  decide +kernel

theorem test_witness_CipherRefusalOrder :
    (cipherSlot (.cipherRelease 0 1) = some 1 ∧ (oneSlot .pc 55).nCtx ≤ (1 : Half).toNat) ∧
    (0 : Half).toNat < (oneSlot .pc 55).nCtx ∧ (1 : Byte) ≠ 0 ∧ (2 : Word) >>> 1 ≠ 0 ∧ (1 : Word) >>> 1 = 0 ∧
    (bufferOf 0xFFFFFFFC 8).valid (oneSlot .pc 55).cfg = false ∧ (bufferOf 0xFFFFFFFC 4).valid (oneSlot .pc 55).cfg = true ∧
    (bufferOf 0x1000 3).valid (oneSlot .pc 55).cfg = true ∧ (3 : Word).toNat % 4 ≠ 0 := by decide +kernel

theorem test_witness_PrsRefusalOrder : ((1 : Byte) ≠ 0 ∧ (1 : Half) ≠ 0) ∧
    shortBuffers.cfg.maxLen < (17 : Word).toNat ∧
    2 ^ (small [] []).cfg.addrBits < (0xFFFFFFFF : Word).toNat + (2 : Word).toNat ∧
    (bufferOf 0x100 8).valid (small [] []).cfg = true ∧ (bufferOf 0x107 16).valid (small [] []).cfg = true ∧
    (bufferOf 0x100 8).covers 0x107 ∧ (bufferOf 0x107 16).covers 0x107 := by decide +kernel

/-- Two states that agree on slot 0 and on the buffer, and differ elsewhere. -/
theorem test_witness_CipherCommandTouchesOnlyItsSlot :
    cipherSlot (.cipherCrypt 0 0 0x1000 8 0) = some 0 ∧ (oneSlot .pc 7).mem.wf ∧
    (small [0x61, 0x62, 0x63, 0x64, 0x65, 0x66, 0x67, 0x68, 0x69] [plain .pc 7, plain .gc 3]).mem.wf ∧
    (oneSlot .pc 7).cfg =
      (small [0x61, 0x62, 0x63, 0x64, 0x65, 0x66, 0x67, 0x68, 0x69] [plain .pc 7, plain .gc 3]).cfg ∧
    (oneSlot .pc 7).slots[(0 : Half).toNat]? =
      (small [0x61, 0x62, 0x63, 0x64, 0x65, 0x66, 0x67, 0x68, 0x69] [plain .pc 7, plain .gc 3]).slots[(0 : Half).toNat]? ∧
    (oneSlot .pc 7).mem.readBytes 0x1000 8 =
      (small [0x61, 0x62, 0x63, 0x64, 0x65, 0x66, 0x67, 0x68, 0x69] [plain .pc 7, plain .gc 3]).mem.readBytes 0x1000 8 ∧
    after (exec (.cipherCrypt 0 0 0x1000 8 0) (oneSlot .pc 7)) (·.status) = some 0 ∧
    cipherSlot (.prsSize 0 0 0x1000 4) = none ∧
    after (exec (.prsSize 0 0 0x1000 4) (small stream1 [plain .pc 7])) (·.status) = some 0 := by decide +kernel

theorem test_witness_CommandsDoNotReadStatus : (Instr.cipherNextWord 0 0).isToken = false := by decide

/-! ### The engines -/

theorem test_witness_PcRingRecurrence : 0 + 2 < 55 ∧ 52 + 2 < 55 := by decide

theorem test_witness_PcMixInPlace : (plain .pc 55).pcRing.length = 56 ∧
    ∀ p ∈ [1, 24], 1 ≤ p ∧ p ≤ 24 ∧ 25 ≤ p + 24 ∧ p + 31 ≤ 55 := by decide

theorem test_witness_PcSlotZeroIsUnread : (plain .pc 1).variant = .pc ∧ (plain .pc 1).ok ∧ (plain .pc 55).ok := by
  decide +kernel

theorem test_witness_PcKeystreamIsLinear : defaultConfig.pcSlot55Init = 0 ∧ (small stream1 []).mem.wf ∧
    { defaultConfig with pcSlot55Init := 1 }.pcSlot55Init ≠ 0 := by decide +kernel

theorem test_witness_GcBaseWordBits : 16 < 17 ∧ 31 < 32 := by decide

theorem test_witness_GcRingFill : (1 ≤ defaultConfig.gcFillTap ∧ defaultConfig.gcFillTap ≤ 17) ∧ 1 ≤ 17 ∧
    ∀ i ∈ [17, 520], 17 ≤ i ∧ i ≤ 520 := by decide

theorem test_witness_GcMixInPlace : (plain .gc 0).gcRing.length = 521 ∧ 31 ≤ 31 ∧ ∀ i ∈ [32, 520], 32 ≤ i ∧ i ≤ 520 := by
  decide +kernel

theorem test_witness_KeystreamDependsOnSeedAlone : Variant.pc ≠ .none ∧ Variant.gc ≠ .none := by decide

theorem test_witness_CryptTwiceRestores : Variant.gc ≠ .none ∧ cryptAccepted (oneSlot .none 0) 0 0x1000 8 0 ∧
    (1 : Word) >>> 1 = 0 ∧ (oneSlot .none 0).mem.wf := by decide +kernel

theorem test_witness_CryptContinuesKeystream : (oneSlot .pc 54).slots[(0 : Half).toNat]? = some (plain .pc 54) ∧
    (plain .pc 54).variant ≠ .none ∧ (bufferOf 0x1000 (4 + 4)).valid (oneSlot .pc 54).cfg = true ∧
    ((4 : Word) + 4).toNat = (4 : Word).toNat + (4 : Word).toNat ∧
    ((0x1000 : Word) + 4).toNat = (0x1000 : Word).toNat + (4 : Word).toNat ∧ (4 : Word).toNat % 4 = 0 := by
  decide +kernel

/-! ### The machine -/

/-- A state between commands, one in a walk, and one in a compression. -/
def invStates : State × State × State :=
  ((oneSlot .gc 7).withPort [0x12], (walking stream1 (some ⟨0x2000, 4⟩) 3).withSlots [plain .pc 1],
    (small stream1 [plain .pc 55]).withJob (some (.compress ⟨0x1000, 4⟩ ⟨0x2000, 9⟩ Emitter.start)))

theorem test_witness_StepKeepsInvariant_command :
    invStates.1.Inv ∧ after (step invStates.1) (·.status) = some 0 := by
  refine ⟨⟨by decide +kernel, by decide +kernel, by decide +kernel, by decide +kernel, fun j h => ?_⟩, by decide +kernel⟩
  rw [show invStates.1.job = none from rfl] at h
  exact absurd h (by simp)

theorem test_witness_StepKeepsInvariant_walk :
    invStates.2.1.Inv ∧ after (step invStates.2.1) (·.job.isSome) = some true := by
  refine ⟨⟨by decide +kernel, by decide +kernel, by decide +kernel, by decide +kernel, fun j h => ?_⟩, by decide +kernel⟩
  rw [show invStates.2.1.job = some (.decode (walkOf stream1 (some ⟨0x2000, 4⟩) 3)) from rfl, Option.mem_some] at h
  subst h
  rw [show invStates.2.1.cfg = defaultConfig from rfl]
  exact (by decide +kernel : (walkOf stream1 (some ⟨0x2000, 4⟩) 3).valid defaultConfig = true ∧
    (walkOf stream1 (some ⟨0x2000, 4⟩) 3).ok)

theorem test_witness_StepKeepsInvariant_compress :
    invStates.2.2.Inv ∧ after (step invStates.2.2) (·.job.isSome) = some true := by
  refine ⟨⟨by decide +kernel, by decide +kernel, by decide +kernel, by decide +kernel, fun j h => ?_⟩, by decide +kernel⟩
  rw [show invStates.2.2.job = some (.compress ⟨0x1000, 4⟩ ⟨0x2000, 9⟩ Emitter.start) from rfl, Option.mem_some] at h
  subst h
  rw [show invStates.2.2.cfg = defaultConfig from rfl]
  exact (by decide +kernel : Buffer.valid defaultConfig ⟨0x1000, 4⟩ = true ∧ Buffer.valid defaultConfig ⟨0x2000, 9⟩ = true ∧
    Emitter.start.cc.x ≤ 4 ∧ Emitter.start.ok)

theorem test_witness_StepKeepsConfiguration : after (step (issued [0x13])) (·.status) = some 0 := by decide +kernel

theorem test_witness_CommandsAreAtomic : (issued [0x13]).job = none ∧ after (step (issued [0x13])) (·.status) = some 0 := by
  decide +kernel

theorem test_witness_CommandsAlwaysEnd : (issued [0x13]).job = none := by decide

theorem test_witness_WordsAreLittleEndian : (small stream1 []).mem.wf := by decide

end Sys2Proof.Tests
end

section
/-! SUPPORT. One word of `HostMem` (00_scope.md R12, R55): what a write of it stores and what a read of it gives. -/

namespace Sys2Proof.Machine

/-- `LE32` puts the bytes of `bytesLE32` together again (R12): each bit lies in one of the four. -/
theorem le32_bytesLE32 (w : Word) :
    le32 (w.extractLsb' 0 8) (w.extractLsb' 8 8) (w.extractLsb' 16 8) (w.extractLsb' 24 8) = w := by
  refine BitVec.eq_of_getLsbD_eq fun i hi => ?_
  have hbyte : i < 8 ∨ (8 ≤ i ∧ i < 16) ∨ (16 ≤ i ∧ i < 24) ∨ 24 ≤ i := by omega
  unfold le32
  rcases hbyte with h | ⟨h, h'⟩ | ⟨h, h'⟩ | h <;> simp <;> grind

/-- Byte `k` of a written word, lowest first (R55). -/
theorem Memory.writeWord_read_inside {m : Memory} (h : m.wf) (a : Nat) (w : Word) {k : Nat} (hk : k < 4) :
    (m.writeWord a w).read (a + k) = w.extractLsb' (8 * k) 8 := by
  unfold Memory.writeWord
  rw [Memory.writeBytes_read_inside h a (bytesLE32 w) (i := k) (by simpa [bytesLE32] using hk)]
  match k, hk with
  | 0, _ | 1, _ | 2, _ | 3, _ => rfl

theorem Memory.readWord_writeWord {m : Memory} (h : m.wf) (a : Nat) (w : Word) : (m.writeWord a w).readWord a = w := by
  have byte (k : Nat) (hk : k < 4) := Memory.writeWord_read_inside h a w hk
  have byte0 := byte 0 (by omega)
  unfold Memory.readWord
  rw [Nat.add_zero] at byte0
  rw [byte0, byte 1 (by omega), byte 2 (by omega), byte 3 (by omega)]
  exact le32_bytesLE32 w

/-- Settles O58: the four bytes by read after write, put together by `LE32`; the frame is the write's. -/
theorem wordsAreLittleEndian : Obligations.WordsAreLittleEndian := fun m a w h =>
  ⟨Memory.readWord_writeWord h a w, fun _ hk => Memory.writeWord_read_inside h a w hk,
    fun _ hb => Memory.writeWord_read_outside m a w hb⟩

end Sys2Proof.Machine
end

section
/-! SUPPORT. The token decoder (30_encoding.md R80; 41_prs_decompressor.md R120-R122): what each reader gives, how far it
moves the cursor, and that it gives tokens only. -/

namespace Sys2Proof

theorem bind_eq_ok {ε α β : Type} {x : Except ε α} {f : α → Except ε β} {b : β} :
    (x >>= f) = .ok b ↔ ∃ a, x = .ok a ∧ f a = .ok b := by
  cases x with
  | error e => simp [bind, Except.bind]
  | ok a => simp [bind, Except.bind]

variable {src : Nat → Option Byte} {c c' : DecodeCursor}

theorem readByte_ok {v : Byte} :
    readByte src c = .ok (v, c') ↔ src c.srcPos = some v ∧ c' = { c with srcPos := c.srcPos + 1 } := by
  unfold readByte
  cases src c.srcPos <;> simp [eq_comm]

/-- What `readBit` can do (R120): take a bit of the control byte, or open a new one first. -/
theorem readBit_ok {b : Bool} :
    readBit src c = .ok (b, c') ↔
      (c.cbLeft ≠ 0 ∧ takeBit c = (b, c')) ∨
      (c.cbLeft = 0 ∧ ∃ v c1, readByte src c = .ok (v, c1) ∧ takeBit { c1 with cbVal := v, cbLeft := 8 } = (b, c')) := by
  unfold readBit
  by_cases h : c.cbLeft = 0
  · cases readByte src c with
    | error e => simp [h]
    | ok p => obtain ⟨v, c1⟩ := p; simp [h]
  · simp [h]

/-- What the data bytes after `0,1` can be (R80): `END`, a trailer form with its third byte, or a header form. -/
theorem decodeLong_cases {i : Instr} (h : decodeLong src c = .ok (i, c')) :
    ∃ b0 b1 c1 c2, readByte src c = .ok (b0, c1) ∧ readByte src c1 = .ok (b1, c2) ∧
      ((le16 b0 b1 = 0 ∧ i = .endStream ∧ c' = c2) ∨
        (le16 b0 b1 ≠ 0 ∧ lengthCode (le16 b0 b1) = 0 ∧
          ∃ b2, readByte src c2 = .ok (b2, c') ∧ i = .lcopyt (distanceCode (le16 b0 b1)) b2) ∨
        (le16 b0 b1 ≠ 0 ∧ lengthCode (le16 b0 b1) ≠ 0 ∧
          i = .lcopyh (lengthCode (le16 b0 b1)) (distanceCode (le16 b0 b1)) ∧ c' = c2)) := by
  obtain ⟨⟨b0, c1⟩, h0, h⟩ := bind_eq_ok.1 h
  obtain ⟨⟨b1, c2⟩, h1, h⟩ := bind_eq_ok.1 h
  refine ⟨b0, b1, c1, c2, h0, h1, ?_⟩
  dsimp only at h
  by_cases hv : le16 b0 b1 = 0
  · rw [if_pos hv] at h
    cases h
    exact .inl ⟨hv, rfl, rfl⟩
  · by_cases hc : lengthCode (le16 b0 b1) = 0
    · rw [if_neg hv, if_pos hc] at h
      obtain ⟨⟨b2, c3⟩, h2, h⟩ := bind_eq_ok.1 h
      cases h
      exact .inr (.inl ⟨hv, hc, b2, h2, rfl⟩)
    · rw [if_neg hv, if_neg hc] at h
      cases h
      exact .inr (.inr ⟨hv, hc, rfl, rfl⟩)

/-- What follows `0,0` (R124): two length bits and the distance byte. -/
theorem decodeShort_cases {i : Instr} (h : decodeShort src c = .ok (i, c')) :
    ∃ lh ll d8 c1 c2, readBit src c = .ok (lh, c1) ∧ readBit src c1 = .ok (ll, c2) ∧
      readByte src c2 = .ok (d8, c') ∧ i = .scopy (lengthBits lh ll) d8 := by
  obtain ⟨⟨lh, c1⟩, h1, h⟩ := bind_eq_ok.1 h
  obtain ⟨⟨ll, c2⟩, h2, h⟩ := bind_eq_ok.1 h
  obtain ⟨⟨d8, c3⟩, h3, h⟩ := bind_eq_ok.1 h
  cases h
  exact ⟨lh, ll, d8, c1, c2, h1, h2, h3, rfl⟩

/-- What a token can be, by its first control bits (R80, R122): `1`, `0,1` or `0,0`. -/
theorem decodeToken_cases {i : Instr} (h : decodeToken src c = .ok (i, c')) :
    (∃ b c1, readBit src c = .ok (true, c1) ∧ readByte src c1 = .ok (b, c') ∧ i = .lit b) ∨
    (∃ c1 c2, readBit src c = .ok (false, c1) ∧ readBit src c1 = .ok (true, c2) ∧ decodeLong src c2 = .ok (i, c')) ∨
    (∃ c1 c2, readBit src c = .ok (false, c1) ∧ readBit src c1 = .ok (false, c2) ∧
      decodeShort src c2 = .ok (i, c')) := by
  obtain ⟨⟨b1, c1⟩, h1, h⟩ := bind_eq_ok.1 h
  cases b1 with
  | true =>
    obtain ⟨⟨b, c2⟩, h2, h⟩ := bind_eq_ok.1 h
    cases h
    exact .inl ⟨b, c1, h1, h2, rfl⟩
  | false =>
    obtain ⟨⟨b2, c2⟩, h2, h⟩ := bind_eq_ok.1 h
    cases b2 with
    | true => exact .inr (.inl ⟨c1, c2, h1, h2, h⟩)
    | false => exact .inr (.inr ⟨c1, c2, h1, h2, h⟩)

/-- The decoder gives tokens only (R80). -/
theorem isToken_of_decodeToken {i : Instr} (h : decodeToken src c = .ok (i, c')) : i.isToken = true := by
  obtain ⟨b, c1, -, -, rfl⟩ | ⟨c1, c2, -, -, h⟩ | ⟨c1, c2, -, -, h⟩ := decodeToken_cases h
  · rfl
  · obtain ⟨b0, b1, c3, c4, -, -, ⟨-, rfl, -⟩ | ⟨-, -, b2, -, rfl⟩ | ⟨-, -, rfl, -⟩⟩ := decodeLong_cases h <;> rfl
  · obtain ⟨lh, ll, d8, c3, c4, -, -, -, rfl⟩ := decodeShort_cases h
    rfl

/-! ### How far a reader moves the cursor, in a source of at most `n` bytes (R121, R134) -/

variable {n : Nat}

theorem readByte_srcPos (hn : ∀ k, n ≤ k → src k = none) {v : Byte} (h : readByte src c = .ok (v, c')) :
    c.srcPos < n ∧ c'.srcPos = c.srcPos + 1 := by
  obtain ⟨hv, rfl⟩ := readByte_ok.1 h
  refine ⟨Nat.lt_of_not_le fun hle => ?_, rfl⟩
  rw [hn _ hle] at hv
  cases hv

theorem readBit_srcPos (hn : ∀ k, n ≤ k → src k = none) {b : Bool} (h : readBit src c = .ok (b, c')) :
    c'.srcPos = c.srcPos ∨ (c.srcPos < n ∧ c'.srcPos = c.srcPos + 1) := by
  obtain ⟨-, ht⟩ | ⟨-, v, c1, hr, ht⟩ := readBit_ok.1 h
  · cases ht
    exact .inl rfl
  · cases ht
    have hc1 : c.srcPos < n ∧ c1.srcPos = c.srcPos + 1 := readByte_srcPos hn hr
    exact .inr hc1

/-- A token reads at least one byte, and none past the end (R121, R134). -/
theorem decodeToken_srcPos (hn : ∀ k, n ≤ k → src k = none) {i : Instr} (h : decodeToken src c = .ok (i, c')) :
    c.srcPos < c'.srcPos ∧ c'.srcPos ≤ n := by
  obtain ⟨b, c1, h1, h2, -⟩ | ⟨c1, c2, h1, h2, h⟩ | ⟨c1, c2, h1, h2, h⟩ := decodeToken_cases h
  · have := readBit_srcPos hn h1
    have := readByte_srcPos hn h2
    omega
  · have := readBit_srcPos hn h1
    have := readBit_srcPos hn h2
    obtain ⟨b0, b1, c3, c4, h3, h4, ⟨-, -, rfl⟩ | ⟨-, -, b2, h5, -⟩ | ⟨-, -, -, rfl⟩⟩ := decodeLong_cases h
    all_goals
      have := readByte_srcPos hn h3
      have := readByte_srcPos hn h4
    · omega
    · have := readByte_srcPos hn h5
      omega
    · omega
  · have := readBit_srcPos hn h1
    have := readBit_srcPos hn h2
    obtain ⟨lh, ll, d8, c3, c4, h3, h4, h5, -⟩ := decodeShort_cases h
    have := readBit_srcPos hn h3
    have := readBit_srcPos hn h4
    have := readByte_srcPos hn h5
    omega

end Sys2Proof
end

section
/-! SUPPORT. The step and the decode walk (41_prs_decompressor.md R122, R134): which meaning a step runs, what a round of the
walk does to the command in progress, and that a walk needs at most `srcLen + 1` rounds. -/

namespace Sys2Proof.Machine

variable {s t : State}

/-! ### The step, by the command in progress -/

theorem exec_of_isToken {i : Instr} (h : i.isToken = true) (s : State) : exec i s = runToken i s := by
  match i, h with
  | .endStream, _ | .lcopyt _ _, _ | .lcopyh _ _, _ | .scopy _ _, _ | .lit _, _ => rfl

/-- The walk of the step is the walk of the commands: the decoder gives tokens only. -/
theorem walkStepWith_exec (s : State) : walkStepWith exec s = walkStep s := by
  unfold walkStep walkStepWith fetchToken
  congr 1
  funext w
  cases h : decodeToken (w.source s.mem) w.dc with
  | error e => rfl
  | ok p => exact exec_of_isToken (isToken_of_decodeToken h) _

theorem step_of_decode {w : Walk} (h : s.job = some (.decode w)) : step s = walkStep s := by
  rw [← walkStepWith_exec]; unfold step; rw [h]

theorem step_of_compress {src dst : Buffer} {e : Emitter} (h : s.job = some (.compress src dst e)) :
    step s = compressTick src dst e s := by
  unfold step; rw [h]

theorem step_of_idle (h : s.job = none) : step s = commandStepWith exec s := by
  unfold step; rw [h]

/-! ### Runs -/

theorem runSteps_next (h : step s = .next t) (n : Nat) : runSteps (n + 1) s = runSteps n t := by
  rw [runSteps, h]

theorem runSteps_one (s : State) : runSteps 1 s = step s := by
  unfold runSteps
  cases h : step s <;> rfl

/-! ### One round of the walk -/

/-- What a token can make of the walk `w` in progress (R122): the end of the command, well or in an error, or more
output. -/
def TokenOutcome (s : State) (w : Walk) (t : State) : Prop :=
  (∃ k, t = s.prsOk k) ∨ (∃ e, t = s.prsError w.dst e) ∨
    ∃ m k, t = (s.withMem m).withJob (some (.decode (w.produced k)))

theorem copyToken_outcome {distance : Int} {len : Nat} (h : copyToken distance len s = .next t) :
    ∃ w, s.job = some (.decode w) ∧ TokenOutcome s w t := by
  obtain ⟨w, hj, -, ⟨-, rfl⟩ | ⟨-, -, rfl⟩ | ⟨-, -, rfl⟩⟩ := copyToken_next.1 h
  · exact ⟨w, hj, .inr (.inl ⟨_, rfl⟩)⟩
  · obtain ⟨m, hm, -⟩ := s.copyOutput_eq w distance len
    exact ⟨w, hj, .inr (.inr ⟨m, len, hm⟩)⟩
  · exact ⟨w, hj, .inr (.inl ⟨_, rfl⟩)⟩

theorem runToken_outcome {i : Instr} (h : runToken i s = .next t) :
    ∃ w, s.job = some (.decode w) ∧ TokenOutcome s w t := by
  cases i with
  | endStream =>
    obtain ⟨w, hj, -, rfl⟩ := execEndStream_next.1 h
    exact ⟨w, hj, .inl ⟨_, rfl⟩⟩
  | lcopyt q b2 => exact copyToken_outcome h
  | lcopyh c q => exact copyToken_outcome h
  | scopy l d8 => exact copyToken_outcome h
  | lit b =>
    obtain ⟨w, hj, -, ⟨-, rfl⟩ | ⟨-, rfl⟩⟩ := execLit_next.1 h
    · obtain ⟨m, hm, -⟩ := s.putOutput_eq w b
      exact ⟨w, hj, .inr (.inr ⟨m, 1, hm⟩)⟩
    · exact ⟨w, hj, .inr (.inl ⟨_, rfl⟩)⟩
  | prsCompress | prsDecompress | prsSize | cipherCreateKeys | cipherCrypt | cipherNextWord | cipherRelease => cases h

/-- A token keeps the configuration and the slots (R42, R198). -/
theorem TokenOutcome.keeps {w : Walk} (h : TokenOutcome s w t) : t.cfg = s.cfg ∧ t.slots = s.slots := by
  obtain ⟨k, rfl⟩ | ⟨e, rfl⟩ | ⟨m, k, rfl⟩ := h <;> simp

/-- A token ends the command, or goes on with the walk and its cursor in the source. -/
theorem TokenOutcome.job {w : Walk} (h : TokenOutcome s w t) :
    t.job = none ∨ ∃ k, t.job = some (.decode (w.produced k)) := by
  obtain ⟨k, rfl⟩ | ⟨e, rfl⟩ | ⟨m, k, rfl⟩ := h
  · exact .inl rfl
  · exact .inl rfl
  · exact .inr ⟨k, rfl⟩

theorem walkStep_outcome (h : walkStep s = .next t) :
    ∃ w, s.job = some (.decode w) ∧
      (t = s.prsError w.dst .malformedCompressedStream ∨
        ∃ i dc, decodeToken (w.source s.mem) w.dc = .ok (i, dc) ∧
          TokenOutcome (s.withJob (some (.decode { w with dc := dc }))) { w with dc := dc } t) := by
  obtain ⟨w, hj, -, ⟨e, -, rfl⟩ | ⟨i, dc, hd, hr⟩⟩ := walkStepWith_next.1 h
  · exact ⟨w, hj, .inl rfl⟩
  · obtain ⟨w', hw', ht⟩ := runToken_outcome hr
    cases hw'
    exact ⟨w, hj, .inr ⟨i, dc, hd, ht⟩⟩

theorem walkStep_keeps (h : walkStep s = .next t) : t.cfg = s.cfg ∧ t.slots = s.slots := by
  obtain ⟨w, -, rfl | ⟨i, dc, -, ht⟩⟩ := walkStep_outcome h
  · simp
  · exact ht.keeps

theorem Walk.source_none (m : Memory) (w : Walk) (k : Nat) (h : w.src.len ≤ k) : w.source m k = none :=
  if_neg (Nat.not_lt.2 h)

/-- A round ends the command, or moves the cursor up within the same source (R134). -/
theorem walkStep_job {w : Walk} (hj : s.job = some (.decode w)) (h : walkStep s = .next t) :
    t.job = none ∨ ∃ w', t.job = some (.decode w') ∧ w'.src = w.src ∧
      w.dc.srcPos < w'.dc.srcPos ∧ w'.dc.srcPos ≤ w.src.len := by
  obtain ⟨w0, hj0, rfl | ⟨i, dc, hd, ht⟩⟩ := walkStep_outcome h
  · exact .inl rfl
  · cases hj.symm.trans hj0
    obtain hn | ⟨k, hk⟩ := ht.job
    · exact .inl hn
    · obtain ⟨hlt, hle⟩ := decodeToken_srcPos (w.source_none s.mem) hd
      exact .inr ⟨_, hk, rfl, hlt, hle⟩

/-! ### The whole walk -/

/-- A walk is its rounds run as steps, as long as `fuel` exceeds the bytes not yet read. -/
theorem runWalk_eq_runSteps {fuel : Nat} {w : Walk} (hj : s.job = some (.decode w)) (hle : w.dc.srcPos ≤ w.src.len)
    (hfuel : w.src.len < w.dc.srcPos + fuel) : ∃ n, n ≤ fuel ∧ runSteps n s = runWalk fuel s := by
  induction fuel generalizing s w with
  | zero => omega
  | succ fuel ih =>
    have hstep : runSteps 1 s = walkStep s := (runSteps_one s).trans (step_of_decode hj)
    rw [runWalk]
    cases h : walkStep s with
    | fault r => exact ⟨1, by omega, hstep.trans h⟩
    | refused r => exact ⟨1, by omega, hstep.trans h⟩
    | next t =>
      obtain hn | ⟨w', hj', hsrc, hlt, hle'⟩ := walkStep_job hj h
      · exact ⟨1, by omega, by simp [hstep, h, hn]⟩
      · have hlen : w'.src.len = w.src.len := congrArg Buffer.len hsrc
        obtain ⟨n, hn, e⟩ := ih hj' (by omega) (by omega)
        refine ⟨n + 1, by omega, ?_⟩
        rw [runSteps_next ((step_of_decode hj).trans h), e]
        simp [hj']

theorem runDecode_eq_runSteps (src : Buffer) (dst : Option Buffer) (s : State) :
    ∃ n, n ≤ src.len + 1 ∧ runSteps n (s.withJob (some (.decode (Walk.start src dst)))) = runDecode src dst s :=
  runWalk_eq_runSteps rfl (Nat.zero_le _) (by simp [Walk.start, DecodeCursor.start])

/-- A walk that ends leaves no command in progress (R22). -/
theorem runWalk_job {n : Nat} (h : runWalk n s = .next t) : t.job = none := by
  induction n generalizing s with
  | zero => cases h
  | succ n ih =>
    obtain ⟨s', -, ⟨hn, rfl⟩ | ⟨-, h⟩⟩ := runWalk_next.1 h
    · exact hn
    · exact ih h

theorem runDecode_keeps {src : Buffer} {dst : Option Buffer} (h : runDecode src dst s = .next t) :
    t.cfg = s.cfg ∧ t.slots = s.slots ∧ t.job = none := by
  have keep (u v : State) (hu : u.cfg = s.cfg ∧ u.slots = s.slots) (huv : walkStep u = .next v) :
      v.cfg = s.cfg ∧ v.slots = s.slots := by
    rw [(walkStep_keeps huv).1, (walkStep_keeps huv).2]
    exact hu
  have hstart : (s.withJob (some (.decode (Walk.start src dst)))).cfg = s.cfg ∧
      (s.withJob (some (.decode (Walk.start src dst)))).slots = s.slots := ⟨rfl, rfl⟩
  unfold runDecode at h
  obtain ⟨hcfg, hslots⟩ := runWalk_keeps (P := fun u => u.cfg = s.cfg ∧ u.slots = s.slots) keep hstart h
  exact ⟨hcfg, hslots, runWalk_job h⟩

end Sys2Proof.Machine
end

section
/-! SUPPORT. The compression (40_prs_compressor.md R104, R110): its loop is its steps. -/

namespace Sys2Proof.Machine

variable {s : State}

/-- A step of the compressor moves its position up (R104, R239). -/
theorem compressStep_lt (window : Nat) (src : List Byte) (e : Emitter) :
    e.cc.x < (compressStep window src e).cc.x := by
  have hmin : prsMinMatch = 3 := rfl
  unfold compressStep
  dsimp only
  split
  · exact Nat.lt_succ_self _
  · change e.cc.x < e.cc.x + (bestMatch window src e.cc.x).1
    omega

/-- A compression in progress, run step by step, is the loop of R110 and its end, as long as `fuel` covers the bytes not
yet encoded. -/
theorem compressLoop_eq_runSteps {src dst : Buffer} (hsrc : src.valid s.cfg = true) (hdst : dst.valid s.cfg = true)
    {fuel : Nat} {e : Emitter} (hfuel : src.len ≤ e.cc.x + fuel) :
    ∃ n, n ≤ fuel + 1 ∧ runSteps n (s.withJob (some (.compress src dst e))) =
      .next (deliver dst (compressLoop s.cfg.prsWindow (s.mem.readBytes src.base src.len) fuel e).finish s) := by
  have finishes (e : Emitter) (hx : src.len ≤ e.cc.x) :
      runSteps 1 (s.withJob (some (.compress src dst e))) = .next (deliver dst e.finish s) := by
    rw [runSteps_one, step_of_compress rfl]
    exact compressTick_next.2 ⟨hsrc, hdst, .inr ⟨hx, (deliver_withJob ..).symm⟩⟩
  induction fuel generalizing e with
  | zero => exact ⟨1, le_rfl, finishes e hfuel⟩
  | succ fuel ih =>
    rw [compressLoop, Memory.readBytes_length]
    by_cases hx : e.cc.x < src.len
    · have hlt := compressStep_lt s.cfg.prsWindow (s.mem.readBytes src.base src.len) e
      obtain ⟨n, hn, h⟩ := ih (e := compressStep s.cfg.prsWindow (s.mem.readBytes src.base src.len) e) (by omega)
      refine ⟨n + 1, by omega, ?_⟩
      rw [if_pos hx, ← h]
      refine runSteps_next ?_ n
      rw [step_of_compress rfl]
      exact compressTick_next.2 ⟨hsrc, hdst, .inl ⟨hx, rfl⟩⟩
    · rw [if_neg hx]
      exact ⟨1, by omega, finishes e (Nat.not_lt.1 hx)⟩

theorem deliver_keeps (dst : Buffer) (e : Emitter) (s : State) :
    (deliver dst e s).cfg = s.cfg ∧ (deliver dst e s).slots = s.slots ∧ (deliver dst e s).job = none := by
  unfold deliver; split <;> simp

end Sys2Proof.Machine
end

section
/-! SUPPORT. What each command can do (30_encoding.md R85): its refusals aside, its next state. -/

namespace Sys2Proof.Machine

variable {s t : State} {var : Byte} {slot : Half} {sb sl db dc : Word}

/-! ### The PRS commands (R110, R140, R141) -/

theorem execPrsCompress_accepted (h : prsAccepted s sb sl db dc) :
    execPrsCompress 0 0 sb sl db dc s = .next (runCompress (bufferOf sb sl) (bufferOf db dc) s) := by
  obtain ⟨hsrc, hdst, hsep⟩ := h
  simp [execPrsCompress, hsrc, hdst, hsep]

theorem execPrsDecompress_accepted (h : prsAccepted s sb sl db dc) :
    execPrsDecompress 0 0 sb sl db dc s = runDecode (bufferOf sb sl) (some (bufferOf db dc)) s := by
  obtain ⟨hsrc, hdst, hsep⟩ := h
  simp [execPrsDecompress, hsrc, hdst, hsep]

theorem execPrsSize_accepted (h : sizeAccepted s sb sl) :
    execPrsSize 0 0 sb sl s = runDecode (bufferOf sb sl) none s := by
  have hsrc : (bufferOf sb sl).valid s.cfg = true := h
  simp [execPrsSize, hsrc]

theorem execPrsCompress_next :
    execPrsCompress var slot sb sl db dc s = .next t ↔
      var = 0 ∧ slot = 0 ∧ prsAccepted s sb sl db dc ∧ t = runCompress (bufferOf sb sl) (bufferOf db dc) s := by
  constructor
  · intro h
    obtain ⟨rfl, rfl, hrun⟩ := onPrsFields_next.1 h
    dsimp only at hrun
    split at hrun
    next => cases hrun
    next hvalid =>
      split at hrun
      next => cases hrun
      next hsep =>
        rw [not_or, not_not, not_not] at hvalid
        cases hrun
        exact ⟨rfl, rfl, ⟨hvalid.1, hvalid.2, eq_false_of_ne_true hsep⟩, rfl⟩
  · rintro ⟨rfl, rfl, hacc, rfl⟩
    exact execPrsCompress_accepted hacc

theorem execPrsDecompress_next :
    execPrsDecompress var slot sb sl db dc s = .next t ↔
      var = 0 ∧ slot = 0 ∧ prsAccepted s sb sl db dc ∧
        runDecode (bufferOf sb sl) (some (bufferOf db dc)) s = .next t := by
  constructor
  · intro h
    obtain ⟨rfl, rfl, hrun⟩ := onPrsFields_next.1 h
    dsimp only at hrun
    split at hrun
    next => cases hrun
    next hvalid =>
      split at hrun
      next => cases hrun
      next hsep =>
        rw [not_or, not_not, not_not] at hvalid
        exact ⟨rfl, rfl, ⟨hvalid.1, hvalid.2, eq_false_of_ne_true hsep⟩, hrun⟩
  · rintro ⟨rfl, rfl, hacc, h⟩
    exact (execPrsDecompress_accepted hacc).trans h

theorem execPrsSize_next :
    execPrsSize var slot sb sl s = .next t ↔
      var = 0 ∧ slot = 0 ∧ sizeAccepted s sb sl ∧ runDecode (bufferOf sb sl) none s = .next t := by
  constructor
  · intro h
    obtain ⟨rfl, rfl, hrun⟩ := onPrsFields_next.1 h
    dsimp only at hrun
    split at hrun
    next => cases hrun
    next hvalid => exact ⟨rfl, rfl, not_not.1 hvalid, hrun⟩
  · rintro ⟨rfl, rfl, hacc, h⟩
    exact (execPrsSize_accepted hacc).trans h

/-! ### The cipher commands (R191-R196) -/

@[simp] theorem State.afterCrypt_cfg (s : State) (k : Nat) (d : Memory × Context) : (s.afterCrypt k d).cfg = s.cfg := rfl
@[simp] theorem State.afterCrypt_slots (s : State) (k : Nat) (d : Memory × Context) :
    (s.afterCrypt k d).slots = s.slots.set k d.2 := rfl
@[simp] theorem State.afterCrypt_job (s : State) (k : Nat) (d : Memory × Context) : (s.afterCrypt k d).job = s.job := rfl

@[simp] theorem State.afterDraw_cfg (s : State) (k : Nat) (d : Word × Context) : (s.afterDraw k d).cfg = s.cfg := rfl
@[simp] theorem State.afterDraw_slots (s : State) (k : Nat) (d : Word × Context) :
    (s.afterDraw k d).slots = s.slots.set k d.2 := rfl
@[simp] theorem State.afterDraw_job (s : State) (k : Nat) (d : Word × Context) : (s.afterDraw k d).job = s.job := rfl

theorem execCipherCreateKeys_next {seed : Word} :
    execCipherCreateKeys var slot seed s = .next t ↔ ∃ ctx, s.slots[slot.toNat]? = some ctx ∧
      ((variantTag var = .pc ∧ t = (s.withSlot slot.toNat (pcCreateKeys s.cfg seed ctx)).finishOk 0) ∨
        (variantTag var = .gc ∧ t = (s.withSlot slot.toNat (gcCreateKeys s.cfg seed ctx)).finishOk 0) ∨
        (variantTag var = .unknown ∧ t = s.finishError .unknownCipherVariant)) := by
  unfold execCipherCreateKeys
  rw [onSlot_next]
  refine exists_congr fun ctx => and_congr_right fun _ => ?_
  cases variantTag var with
  | pc => simp only [Host.Outcome.next.injEq, eq_comm (b := t), true_and, reduceCtorEq, false_and, or_false]
  | gc => simp only [Host.Outcome.next.injEq, eq_comm (b := t), true_and, reduceCtorEq, false_and, or_false, false_or]
  | blueBurst => simp
  | unknown => simp [eq_comm (b := t)]

theorem execCipherCrypt_next {bb bl flags : Word} :
    execCipherCrypt var slot bb bl flags s = .next t ↔ var = 0 ∧ cryptAccepted s slot bb bl flags ∧
      ∃ ctx, s.slots[slot.toNat]? = some ctx ∧
        ((ctx.variant = .none ∧ t = s.finishError .contextNotKeyed) ∨
          (ctx.variant = .pc ∧ t = s.afterCrypt slot.toNat (pcTransform (bufferOf bb bl) s.mem ctx)) ∨
          (ctx.variant = .gc ∧ t = s.afterCrypt slot.toNat (gcTransform (bufferOf bb bl) s.mem ctx))) := by
  unfold execCipherCrypt
  rw [onCipherSlot_next]
  refine and_congr_right fun _ => ?_
  constructor
  · rintro ⟨ctx, hctx, h⟩
    have hslot : slot.toNat < s.nCtx := (List.getElem?_eq_some_iff.1 hctx).1
    split at h
    next => cases h
    next hflags =>
      dsimp only at h
      split at h
      next => cases h
      next hvalid =>
        split at h
        next => cases h
        next hlen =>
          refine ⟨⟨hslot, not_not.1 hflags, not_not.1 hvalid, not_not.1 hlen⟩, ctx, hctx, ?_⟩
          cases hv : ctx.variant <;> rw [hv] at h <;> cases h <;> simp
  · rintro ⟨⟨-, hflags, hvalid, hlen⟩, ctx, hctx, h⟩
    have hmod : (bufferOf bb bl).len % 4 = 0 := hlen
    refine ⟨ctx, hctx, ?_⟩
    obtain ⟨hv, rfl⟩ | ⟨hv, rfl⟩ | ⟨hv, rfl⟩ := h <;> simp [hflags, hvalid, hmod, hv]

theorem execCipherNextWord_next :
    execCipherNextWord var slot s = .next t ↔ var = 0 ∧ ∃ ctx, s.slots[slot.toNat]? = some ctx ∧
      ((ctx.variant = .none ∧ t = s.finishError .contextNotKeyed) ∨
        (ctx.variant = .pc ∧ t = s.afterDraw slot.toNat (pcNextWord ctx)) ∨
        (ctx.variant = .gc ∧ t = s.afterDraw slot.toNat (gcNextWord ctx))) := by
  unfold execCipherNextWord
  rw [onCipherSlot_next]
  refine and_congr_right fun _ => exists_congr fun ctx => and_congr_right fun _ => ?_
  cases ctx.variant <;> simp [eq_comm (b := t)]

theorem execCipherRelease_next :
    execCipherRelease var slot s = .next t ↔ var = 0 ∧ ∃ ctx, s.slots[slot.toNat]? = some ctx ∧
      t = (s.withSlot slot.toNat { ctx with variant := .none }).finishOk 0 := by
  unfold execCipherRelease
  rw [onCipherSlot_next]
  simp [eq_comm (b := t)]

end Sys2Proof.Machine
end

section
/-! SUPPORT. What every instruction and every step keeps: the configuration, the number of slots, and no command in progress
where there was none (00_scope.md R8; 10_state.md R30, R42). The obligations on the step. -/

namespace Sys2Proof.Machine

variable {s t : State} {i : Instr}

theorem runToken_keeps (h : runToken i s = .next t) :
    t.cfg = s.cfg ∧ t.nCtx = s.nCtx ∧ (s.job = none → t.job = none) := by
  obtain ⟨w, hj, ht⟩ := runToken_outcome h
  obtain ⟨hcfg, hslots⟩ := ht.keeps
  exact ⟨hcfg, congrArg List.length hslots, fun hn => by simp [hj] at hn⟩

theorem runDecode_keeps_nCtx {src : Buffer} {dst : Option Buffer} (h : runDecode src dst s = .next t) :
    t.cfg = s.cfg ∧ t.nCtx = s.nCtx ∧ (s.job = none → t.job = none) := by
  obtain ⟨hcfg, hslots, hjob⟩ := runDecode_keeps h
  exact ⟨hcfg, congrArg List.length hslots, fun _ => hjob⟩

theorem exec_keeps (h : exec i s = .next t) : t.cfg = s.cfg ∧ t.nCtx = s.nCtx ∧ (s.job = none → t.job = none) := by
  cases i with
  | endStream | lcopyt | lcopyh | scopy | lit => exact runToken_keeps ((exec_of_isToken rfl s).symm.trans h)
  | prsCompress var slot sb sl db dc =>
    obtain ⟨-, -, -, rfl⟩ := execPrsCompress_next.1 h
    obtain ⟨hcfg, hslots, hjob⟩ := deliver_keeps (bufferOf db dc) _ s
    exact ⟨hcfg, congrArg List.length hslots, fun _ => hjob⟩
  | prsDecompress var slot sb sl db dc =>
    obtain ⟨-, -, -, hrun⟩ := execPrsDecompress_next.1 h
    exact runDecode_keeps_nCtx hrun
  | prsSize var slot sb sl =>
    obtain ⟨-, -, -, hrun⟩ := execPrsSize_next.1 h
    exact runDecode_keeps_nCtx hrun
  | cipherCreateKeys var slot seed =>
    obtain ⟨ctx, -, ⟨-, rfl⟩ | ⟨-, rfl⟩ | ⟨-, rfl⟩⟩ := execCipherCreateKeys_next.1 h <;> simp
  | cipherCrypt var slot bb bl flags =>
    obtain ⟨-, -, ctx, -, ⟨-, rfl⟩ | ⟨-, rfl⟩ | ⟨-, rfl⟩⟩ := execCipherCrypt_next.1 h <;> simp
  | cipherNextWord var slot =>
    obtain ⟨-, ctx, -, ⟨-, rfl⟩ | ⟨-, rfl⟩ | ⟨-, rfl⟩⟩ := execCipherNextWord_next.1 h <;> simp
  | cipherRelease var slot =>
    obtain ⟨-, ctx, -, rfl⟩ := execCipherRelease_next.1 h
    simp

theorem compressTick_keeps {src dst : Buffer} {e : Emitter} (h : compressTick src dst e s = .next t) :
    t.cfg = s.cfg ∧ t.slots = s.slots := by
  obtain ⟨-, -, ⟨-, rfl⟩ | ⟨-, rfl⟩⟩ := compressTick_next.1 h
  · exact ⟨rfl, rfl⟩
  · obtain ⟨hcfg, hslots, -⟩ := deliver_keeps dst e.finish s
    exact ⟨hcfg, hslots⟩

/-- The next command of the port keeps what its instruction keeps; an idle step keeps all (R213). -/
theorem commandStep_keeps (h : commandStepWith exec s = .next t) :
    t.cfg = s.cfg ∧ t.nCtx = s.nCtx ∧ (s.job = none → t.job = none) := by
  obtain ⟨-, rfl⟩ | ⟨i, s', hf, he⟩ := commandStepWith_next.1 h
  · exact ⟨rfl, rfl, id⟩
  · obtain ⟨rest, -, rfl⟩ := fetchCommand_command.1 hf
    have hkeeps := exec_keeps he
    exact hkeeps

/-- Settles O7: the fetch takes the command that the port decodes to. -/
theorem stepRunsIssuedCommand : Obligations.StepRunsIssuedCommand := by
  intro s i rest hjob hdecode
  rw [step_of_idle hjob, commandStepWith, fetchCommand_command.2 ⟨rest, hdecode, rfl⟩]

/-- Settles O55, by the three kinds of step. -/
theorem stepKeepsConfiguration : Obligations.StepKeepsConfiguration := by
  intro s t h
  obtain ⟨w, -, hw⟩ | ⟨src, dst, e, -, hc⟩ | ⟨-, hi⟩ := step_next.1 h
  · rw [walkStepWith_exec] at hw
    obtain ⟨hcfg, hslots⟩ := walkStep_keeps hw
    exact ⟨hcfg, congrArg List.length hslots⟩
  · obtain ⟨hcfg, hslots⟩ := compressTick_keeps hc
    exact ⟨hcfg, congrArg List.length hslots⟩
  · obtain ⟨hcfg, hn, -⟩ := commandStep_keeps hi
    exact ⟨hcfg, hn⟩

/-- Settles O56: with no command in progress the step is the next command of the port, which leaves none. -/
theorem commandsAreAtomic : Obligations.CommandsAreAtomic := by
  intro s t hjob h
  rw [step_of_idle hjob] at h
  obtain ⟨-, -, hnone⟩ := commandStep_keeps h
  exact hnone hjob

/-- Settles O11: the walk of each command is its rounds run as steps. -/
theorem decodeCommandIsItsTokens : Obligations.DecodeCommandIsItsTokens := by
  constructor
  · intro s sb sl db dc hacc
    obtain ⟨n, hn, h⟩ := runDecode_eq_runSteps (bufferOf sb sl) (some (bufferOf db dc)) s
    exact ⟨n, hn, h.trans (execPrsDecompress_accepted hacc).symm⟩
  · intro s sb sl hacc
    obtain ⟨n, hn, h⟩ := runDecode_eq_runSteps (bufferOf sb sl) none s
    exact ⟨n, hn, h.trans (execPrsSize_accepted hacc).symm⟩

/-- Settles O59: the loop of the command is the compression in progress from R22's cursor, run as steps. -/
theorem compressCommandIsItsSteps : Obligations.CompressCommandIsItsSteps := by
  intro s sb sl db dc hacc
  obtain ⟨hsrc, hdst, -⟩ := id hacc
  obtain ⟨n, hn, h⟩ := compressLoop_eq_runSteps hsrc hdst (e := Emitter.start) (Nat.le_add_left _ _)
  exact ⟨n, hn, h.trans (execPrsCompress_accepted hacc).symm⟩

end Sys2Proof.Machine
end

section
/-! SUPPORT. The values after reset (10_state.md R43), and a token outside a decode walk (R27). -/

namespace Sys2Proof.Machine

/-- The slots after reset are all alike (R43). -/
theorem State.reset_slots_eq {c : Context} (h : c ∈ State.reset.slots) : c = Context.reset :=
  (List.mem_replicate.1 h).2

theorem Context.reset_ok : Context.reset.ok := by
  refine ⟨List.length_replicate, List.length_replicate, ?_, ?_⟩ <;> intro h <;> cases h

/-- Settles O51: the fields of `State.reset`, and its one value for every slot. -/
theorem resetValues : Obligations.ResetValues := by
  refine ⟨rfl, rfl, rfl, fun c hc => ?_⟩
  rw [State.reset_slots_eq hc]
  exact ⟨rfl, rfl, rfl, rfl, rfl⟩

/-- Settles O53: empty memory is canonical, no command is in progress, and a slot after reset is in range. -/
theorem resetMeetsInvariant : Obligations.ResetMeetsInvariant := by
  have slots_ok (c : Context) (hc : c ∈ State.reset.slots) : c.ok := State.reset_slots_eq hc ▸ Context.reset_ok
  have nCtx_pos : 1 ≤ State.reset.nCtx := by
    rw [State.nCtx_eq, State.reset, List.length_replicate, resetSlotCount]
    decide
  have no_job (j : Job) (hj : j ∈ State.reset.job) : j.ok State.reset.cfg := by cases hj
  exact ⟨Memory.wf_nil, nCtx_pos, slots_ok, Nat.zero_le 4, no_job⟩

theorem onWalk_of_no_walk {s : State} (h : ∀ w, s.job ≠ some (.decode w)) (f : Walk → Result) :
    onWalk s f = .refused .noDecodeInProgress := by
  unfold onWalk
  split
  next w hw => exact absurd hw (h w)
  next => rfl
  next => rfl

/-- Settles O17: each token acts on the walk in progress, and there is none. -/
theorem tokenNeedsDecodeWalk : Obligations.TokenNeedsDecodeWalk := by
  intro s i htoken hjob
  rw [exec_of_isToken htoken]
  cases i with
  | endStream | lcopyt | lcopyh | scopy | lit => exact onWalk_of_no_walk hjob _
  | prsCompress | prsDecompress | prsSize | cipherCreateKeys | cipherCrypt | cipherNextWord | cipherRelease => rfl

end Sys2Proof.Machine
end

section
/-! SUPPORT. The cipher contexts stay in the ranges of 10_state.md R32 and R33: key setup puts them there, and every draw
and every transform keeps them there. -/

namespace Sys2Proof.Machine

theorem repeated_length {f : List Word → List Word} (keep : ∀ r, (f r).length = r.length) (n : Nat) (r : List Word) :
    (repeated f n r).length = r.length := by
  induction n generalizing r with
  | zero => rfl
  | succ n ih => rw [repeated, ih, keep]

/-- What one draw keeps, a transform keeps of its context. -/
theorem transformWords_keeps {P : Context → Prop} {next : Context → Word × Context} (keep : ∀ c, P c → P (next c).2)
    (n a : Nat) (m : Memory) {c : Context} (h : P c) : P (transformWords next n a m c).2 := by
  induction n generalizing a m c with
  | zero => exact h
  | succ n ih => exact ih _ _ (keep c h)

/-! ### The PC engine (R150-R156) -/

theorem foldl_pcRingStep_length (l : List Nat) (st : PcFill) :
    (l.foldl pcRingStep st).ring.length = st.ring.length := by
  induction l generalizing st with
  | nil => rfl
  | cons i l ih => rw [List.foldl_cons, ih, pcRingStep, ringSet_length]

@[simp] theorem pcRingInit_length (seed : Word) : (pcRingInit seed).length = pcRingWords := by
  rw [pcRingInit, foldl_pcRingStep_length, List.length_replicate]

@[simp] theorem pcKeyedRing_length (slot55 seed : Word) : (pcKeyedRing slot55 seed).length = pcRingWords := by
  rw [pcKeyedRing, repeated_length pcMix_length, ringSet_length, pcRingInit_length]

theorem pcCreateKeys_ok (cfg : Config) (seed : Word) {c : Context} (h : c.ok) : (pcCreateKeys cfg seed c).ok := by
  obtain ⟨-, hgc, -, -⟩ := h
  have hpc : (pcCreateKeys cfg seed c).pcRing.length = pcRingWords := by
    simp only [pcCreateKeys, pcKeyedRing_length]
  exact ⟨hpc, hgc, fun _ => (by decide : 1 ≤ pcCursorEnd ∧ pcCursorEnd ≤ pcCursorEnd),
    fun hv => by cases hv⟩

/-- A PC context in range (R32). -/
def Context.pcOk (c : Context) : Prop := c.variant = .pc ∧ c.ok

/-- After the mix at cursor 55 the cursor is at a word to draw (R156). -/
theorem pcRefill_cursor {c : Context} (h : 1 ≤ c.cursor ∧ c.cursor ≤ pcCursorEnd) :
    1 ≤ (pcRefill c).cursor ∧ (pcRefill c).cursor < pcCursorEnd := by
  unfold pcRefill
  split
  next => exact ⟨Nat.le_refl 1, (by decide : 1 < pcCursorEnd)⟩
  next hne => exact ⟨h.1, lt_of_le_of_ne h.2 hne⟩

theorem pcRefill_pcRing_length (c : Context) : (pcRefill c).pcRing.length = c.pcRing.length := by
  unfold pcRefill; split <;> simp

theorem pcRefill_other_fields (c : Context) :
    (pcRefill c).variant = c.variant ∧ (pcRefill c).gcRing = c.gcRing := by
  unfold pcRefill; split <;> exact ⟨rfl, rfl⟩

theorem pcNextWord_ok {c : Context} (h : c.pcOk) : (pcNextWord c).2.pcOk := by
  obtain ⟨hv, hpc, hgc, hcursor, -⟩ := h
  obtain ⟨hv', hgc'⟩ := pcRefill_other_fields c
  obtain ⟨hlow, hhigh⟩ := pcRefill_cursor (hcursor hv)
  have hpcv : (pcNextWord c).2.variant = .pc := hv'.trans hv
  refine ⟨hpcv, (pcRefill_pcRing_length c).trans hpc, (congrArg List.length hgc').trans hgc,
    fun _ => ⟨Nat.le_succ_of_le hlow, hhigh⟩, fun hg => ?_⟩
  rw [hpcv] at hg
  cases hg

theorem pcTransform_ok (buf : Buffer) (m : Memory) {c : Context} (h : c.pcOk) : (pcTransform buf m c).2.pcOk :=
  transformWords_keeps (fun _ => pcNextWord_ok) _ _ _ h

/-! ### The GameCube engine (R170-R178) -/

theorem gcBaseWordsFrom_length (n : Nat) (g : GcSeed) : (gcBaseWordsFrom n g).length = n := by
  induction n generalizing g with
  | zero => rfl
  | succ n ih => rw [gcBaseWordsFrom, List.length_cons, ih]

@[simp] theorem gcInitRing_length (tap : Nat) (seed : Word) : (gcInitRing tap seed).length = gcRingWords := by
  have keep (r : List Word) (i : Nat) : (gcFillStep tap r i).length = r.length := by simp [gcFillStep]
  rw [gcInitRing, gcFill, foldl_length keep, gcOverwrite, ringSet_length, List.length_append,
    gcBaseWords, gcBaseWordsFrom_length, List.length_replicate]
  rfl

/-- A mix rewrites the ring and the cursor alone (R173, R175). -/
theorem repeated_gcMix (n : Nat) (c : Context) :
    repeated gcMix (n + 1) c = { c with gcRing := repeated gcMixRing (n + 1) c.gcRing, cursor := 0 } := by
  induction n generalizing c with
  | zero => simp only [repeated, gcMix]
  | succ n ih => simp only [repeated_succ _ (n + 1), ih, gcMix]

/-- Key setup as one update of the slot: its mixes rewrite the ring alone, and the cursor ends at 520 (R176, R177). -/
theorem gcCreateKeys_eq (cfg : Config) (seed : Word) (c : Context) :
    gcCreateKeys cfg seed c =
      { c with variant := .gc, gcRing := repeated gcMixRing gcInitMixes (gcInitRing cfg.gcFillTap seed),
               cursor := gcInitCursor, seed0 := seed } := by
  rw [gcCreateKeys, gcInitMixes, repeated_gcMix]

theorem gcCreateKeys_ok (cfg : Config) (seed : Word) {c : Context} (h : c.ok) : (gcCreateKeys cfg seed c).ok := by
  obtain ⟨hpc, -, -, -⟩ := h
  rw [gcCreateKeys_eq]
  refine ⟨hpc, ?_, fun hv => (by cases hv), fun _ => (by decide : gcInitCursor < gcRingWords)⟩
  rw [repeated_length gcMixRing_length, gcInitRing_length]

/-- A GC context in range (R33). -/
def Context.gcOk (c : Context) : Prop := c.variant = .gc ∧ c.ok

/-- The cursor stays in the ring: at its end the mix sends it back to 0 (R178, R179). -/
theorem gcAdvance_cursor {c : Context} (h : c.cursor < gcRingWords) : (gcAdvance c).cursor < gcRingWords := by
  unfold gcAdvance
  split
  next => exact Nat.zero_lt_of_lt h
  next hne => exact lt_of_le_of_ne h hne

theorem gcAdvance_gcRing_length (c : Context) : (gcAdvance c).gcRing.length = c.gcRing.length := by
  unfold gcAdvance; split <;> simp [gcMix]

theorem gcAdvance_other_fields (c : Context) :
    (gcAdvance c).variant = c.variant ∧ (gcAdvance c).pcRing = c.pcRing := by
  unfold gcAdvance; split <;> simp [gcMix]

theorem gcNextWord_ok {c : Context} (h : c.gcOk) : (gcNextWord c).2.gcOk := by
  obtain ⟨hv, hpc, hgc, -, hcursor⟩ := h
  obtain ⟨hv', hpc'⟩ := gcAdvance_other_fields c
  have hgcv : (gcNextWord c).2.variant = .gc := hv'.trans hv
  refine ⟨hgcv, (congrArg List.length hpc').trans hpc, (gcAdvance_gcRing_length c).trans hgc, fun hp => ?_,
    fun _ => gcAdvance_cursor (hcursor hv)⟩
  rw [hgcv] at hp
  cases hp

theorem gcTransform_ok (buf : Buffer) (m : Memory) {c : Context} (h : c.gcOk) : (gcTransform buf m c).2.gcOk :=
  transformWords_keeps (fun _ => gcNextWord_ok) _ _ _ h

end Sys2Proof.Machine
end

section
/-! SUPPORT. Slot 0 of a PC ring (42_cipher_pc.md R152-R156): no rule reads it into another slot, and no draw returns it. -/

namespace Sys2Proof.Machine

/-- The same context with another word in slot 0. -/
def Context.withSlotZero (w : Word) (c : Context) : Context := { c with pcRing := ringSet c.pcRing 0 w }

theorem ringSet_zero_comm (r : List Word) (w v : Word) {p : Nat} (hp : p ≠ 0) :
    ringSet (ringSet r 0 w) p v = ringSet (ringSet r p v) 0 w :=
  List.set_comm _ _ hp.symm

/-- Pass 1 reads slots `p` and `p + 31` (R153). -/
theorem pcMixHigh_slotZero (r : List Word) (w : Word) {p : Nat} (hp : 1 ≤ p) :
    pcMixHigh (ringSet r 0 w) p = ringSet (pcMixHigh r p) 0 w := by
  rw [pcMixHigh, pcMixHigh, ringGet_set_ne _ (by omega), ringGet_set_ne _ (by omega), ringSet_zero_comm _ _ _ (by omega)]

/-- Pass 2 reads slots `p` and `p - 24` (R153). -/
theorem pcMixLow_slotZero (r : List Word) (w : Word) {p : Nat} (hp : pcLagLo + 1 ≤ p) :
    pcMixLow (ringSet r 0 w) p = ringSet (pcMixLow r p) 0 w := by
  rw [pcMixLow, pcMixLow, ringGet_set_ne _ (by omega), ringGet_set_ne _ (by omega), ringSet_zero_comm _ _ _ (by omega)]

/-- A pass of steps that leave slot 0 alone leaves it alone. -/
theorem foldl_slotZero {f : List Word → Nat → List Word} {w : Word} {l : List Nat}
    (comm : ∀ r, ∀ p ∈ l, f (ringSet r 0 w) p = ringSet (f r p) 0 w) (r : List Word) :
    l.foldl f (ringSet r 0 w) = ringSet (l.foldl f r) 0 w := by
  induction l generalizing r with
  | nil => rfl
  | cons p l ih =>
    rw [List.foldl_cons, comm r p List.mem_cons_self, ih fun r q hq => comm r q (List.mem_cons_of_mem p hq),
      List.foldl_cons]

theorem pcMix_slotZero (r : List Word) (w : Word) : pcMix (ringSet r 0 w) = ringSet (pcMix r) 0 w := by
  unfold pcMix
  rw [foldl_slotZero fun r p hp => pcMixHigh_slotZero r w (List.mem_range'_1.1 hp).1,
    foldl_slotZero fun r p hp => pcMixLow_slotZero r w (List.mem_range'_1.1 hp).1]

theorem pcRefill_slotZero (w : Word) (c : Context) : pcRefill (c.withSlotZero w) = (pcRefill c).withSlotZero w := by
  unfold pcRefill Context.withSlotZero
  split
  next => rw [pcMix_slotZero]
  next => rfl

/-- A draw returns a slot from 1 to 54 (R156). -/
theorem pcNextWord_slotZero (w : Word) {c : Context} (h : c.pcOk) :
    pcNextWord (c.withSlotZero w) = ((pcNextWord c).1, (pcNextWord c).2.withSlotZero w) := by
  obtain ⟨hv, -, -, hcursor, -⟩ := h
  obtain ⟨hlow, -⟩ := pcRefill_cursor (hcursor hv)
  have same_word : ringGet (ringSet (pcRefill c).pcRing 0 w) (pcRefill c).cursor =
      ringGet (pcRefill c).pcRing (pcRefill c).cursor := ringGet_set_ne _ (by omega) w
  unfold pcNextWord
  rw [pcRefill_slotZero]
  exact Prod.ext same_word rfl

theorem drawWord_of_pcOk {c : Context} (h : c.pcOk) : drawWord c = pcNextWord c := by
  obtain ⟨hv, -⟩ := h
  unfold drawWord
  rw [hv]

theorem Context.pcOk.withSlotZero {c : Context} (h : c.pcOk) (w : Word) : (c.withSlotZero w).pcOk := by
  obtain ⟨hv, hpc, hgc, hcursor⟩ := h
  exact ⟨hv, (ringSet_length _ _ _).trans hpc, hgc, hcursor⟩

theorem keystreamWord_zero (c : Context) : keystreamWord c 0 = (drawWord c).1 := rfl

theorem keystreamWord_succ (c : Context) (k : Nat) : keystreamWord c (k + 1) = keystreamWord (drawWord c).2 k := rfl

theorem keystreamWord_slotZero (w : Word) (k : Nat) {c : Context} (h : c.pcOk) :
    keystreamWord (c.withSlotZero w) k = keystreamWord c k := by
  induction k generalizing c with
  | zero =>
    rw [keystreamWord_zero, keystreamWord_zero, drawWord_of_pcOk (h.withSlotZero w), drawWord_of_pcOk h,
      pcNextWord_slotZero w h]
  | succ k ih =>
    rw [keystreamWord_succ, keystreamWord_succ, drawWord_of_pcOk (h.withSlotZero w), drawWord_of_pcOk h,
      pcNextWord_slotZero w h, ih (pcNextWord_ok h)]

/-- Settles O42: the word in slot 0 rides along unread, draw after draw. -/
theorem pcSlotZeroIsUnread : Obligations.PcSlotZeroIsUnread :=
  fun _ w k hv hok => keystreamWord_slotZero w k ⟨hv, hok⟩

end Sys2Proof.Machine
end

section
/-! SUPPORT. `STATUS` and `RESULT` are written at a command's end and read by no rule (10_state.md R40, R41). -/

namespace Sys2Proof.Machine

variable {s : State} {st : Byte} {r : Word}

/-! ### A command's end writes both -/

theorem State.withOutcome_prsOk (s : State) (st : Byte) (r : Word) (n : Nat) :
    (s.withOutcome st r).prsOk n = s.prsOk n := rfl

theorem State.withOutcome_prsError (s : State) (st : Byte) (r : Word) (dst : Option Buffer) (e : ErrorCode) :
    (s.withOutcome st r).prsError dst e = s.prsError dst e := by
  cases dst <;> rfl

theorem deliver_withOutcome (dst : Buffer) (e : Emitter) (s : State) (st : Byte) (r : Word) :
    deliver dst e (s.withOutcome st r) = deliver dst e s := by
  unfold deliver
  rw [State.withOutcome_prsError]
  rfl

/-! ### A round of the walk hands them on, or ends the command -/

/-- What a round answers from a state with other values in `STATUS` and `RESULT`, against what it answers without: the
same, or a walk that goes on with those values. -/
def HandsOn (st : Byte) (r : Word) (x y : Result) : Prop :=
  x = y ∨ ∃ t, t.job ≠ none ∧ y = .next t ∧ x = .next (t.withOutcome st r)

theorem onWalk_handsOn {f g : Walk → Result} (h : ∀ w, HandsOn st r (f w) (g w)) :
    HandsOn st r (onWalk (s.withOutcome st r) f) (onWalk s g) := by
  unfold onWalk
  rw [State.withOutcome_job, State.withOutcome_cfg]
  split
  next w _ =>
    split
    next => exact h w
    next => exact .inl rfl
  next => exact .inl rfl
  next => exact .inl rfl

theorem HandsOn.prsError (dst : Option Buffer) (e : ErrorCode) :
    HandsOn st r (.next ((s.withOutcome st r).prsError dst e)) (.next (s.prsError dst e)) :=
  .inl (by rw [State.withOutcome_prsError])

theorem HandsOn.copyOutput (w : Walk) (distance : Int) (len : Nat) :
    HandsOn st r (.next ((s.withOutcome st r).copyOutput w distance len)) (.next (s.copyOutput w distance len)) := by
  refine .inr ⟨_, by simp, rfl, ?_⟩
  unfold State.copyOutput
  cases w.dst <;> rfl

theorem HandsOn.putOutput (w : Walk) (b : Byte) :
    HandsOn st r (.next ((s.withOutcome st r).putOutput w b)) (.next (s.putOutput w b)) := by
  refine .inr ⟨_, by simp, rfl, ?_⟩
  unfold State.putOutput
  cases w.dst <;> rfl

theorem copyToken_handsOn (distance : Int) (len : Nat) (s : State) :
    HandsOn st r (copyToken distance len (s.withOutcome st r)) (copyToken distance len s) := by
  refine onWalk_handsOn fun w => ?_
  split
  next => exact .prsError ..
  next =>
    split
    next => exact .copyOutput ..
    next => exact .prsError ..

theorem execLit_handsOn (b : Byte) (s : State) : HandsOn st r (execLit b (s.withOutcome st r)) (execLit b s) := by
  refine onWalk_handsOn fun w => ?_
  split
  next => exact .putOutput ..
  next => exact .prsError ..

theorem runToken_handsOn (i : Instr) (s : State) : HandsOn st r (runToken i (s.withOutcome st r)) (runToken i s) := by
  cases i with
  | endStream => exact onWalk_handsOn fun w => .inl (by rw [State.withOutcome_prsOk])
  | lcopyt | lcopyh | scopy => exact copyToken_handsOn ..
  | lit => exact execLit_handsOn ..
  | prsCompress | prsDecompress | prsSize | cipherCreateKeys | cipherCrypt | cipherNextWord | cipherRelease =>
    exact .inl rfl

theorem walkStep_handsOn (s : State) : HandsOn st r (walkStep (s.withOutcome st r)) (walkStep s) := by
  refine onWalk_handsOn fun w => ?_
  unfold fetchToken
  rw [State.withOutcome_mem]
  cases decodeToken (w.source s.mem) w.dc with
  | error e => exact .prsError ..
  | ok p => exact runToken_handsOn p.1 (s.withJob (some (.decode { w with dc := p.2 })))

/-! ### The commands -/

/-- A walk from its start to its end: the round that ends it writes both. -/
theorem runWalk_withOutcome (fuel : Nat) (s : State) (st : Byte) (r : Word) :
    runWalk fuel (s.withOutcome st r) = runWalk fuel s := by
  induction fuel generalizing s with
  | zero => rfl
  | succ fuel ih =>
    rw [runWalk, runWalk]
    obtain h | ⟨t, hjob, ht, h⟩ := walkStep_handsOn (st := st) (r := r) s
    · rw [h]
    · rw [h, ht]
      simp only [State.withOutcome_job, if_neg hjob, ih]

theorem runDecode_withOutcome (src : Buffer) (dst : Option Buffer) (s : State) (st : Byte) (r : Word) :
    runDecode src dst (s.withOutcome st r) = runDecode src dst s :=
  runWalk_withOutcome _ (s.withJob (some (.decode (Walk.start src dst)))) st r

theorem execPrsCompress_withOutcome (var : Byte) (slot : Half) (sb sl db dc : Word) (s : State) (st : Byte) (r : Word) :
    execPrsCompress var slot sb sl db dc (s.withOutcome st r) = execPrsCompress var slot sb sl db dc s := by
  simp only [execPrsCompress, runCompress, deliver_withOutcome, State.withOutcome_cfg, State.withOutcome_mem]

theorem execPrsDecompress_withOutcome (var : Byte) (slot : Half) (sb sl db dc : Word) (s : State) (st : Byte)
    (r : Word) : execPrsDecompress var slot sb sl db dc (s.withOutcome st r) = execPrsDecompress var slot sb sl db dc s := by
  simp only [execPrsDecompress, runDecode_withOutcome, State.withOutcome_cfg]

theorem execPrsSize_withOutcome (var : Byte) (slot : Half) (sb sl : Word) (s : State) (st : Byte) (r : Word) :
    execPrsSize var slot sb sl (s.withOutcome st r) = execPrsSize var slot sb sl s := by
  simp only [execPrsSize, runDecode_withOutcome, State.withOutcome_cfg]

/-- Settles O38: a PRS command ends in one of the two endings, and a cipher command's answer, refused or ended, is the
same term without the old values. -/
theorem commandsDoNotReadStatus : Obligations.CommandsDoNotReadStatus := by
  intro i s st r hcommand
  cases i with
  | endStream | lcopyt | lcopyh | scopy | lit => cases hcommand
  | prsCompress => exact execPrsCompress_withOutcome ..
  | prsDecompress => exact execPrsDecompress_withOutcome ..
  | prsSize => exact execPrsSize_withOutcome ..
  | cipherCreateKeys | cipherCrypt | cipherNextWord | cipherRelease => rfl

end Sys2Proof.Machine
end

section
/-! SUPPORT. The token decoder keeps the ranges of its cursor (10_state.md R24). -/

namespace Sys2Proof

variable {src : Nat → Option Byte} {c c' : DecodeCursor}

/-- What every byte and every bit read keeps of the cursor, a token keeps (R80). -/
theorem decodeToken_keeps {P : DecodeCursor → Prop}
    (byte : ∀ {c c' v}, readByte src c = .ok (v, c') → P c → P c')
    (bit : ∀ {c c' b}, readBit src c = .ok (b, c') → P c → P c') {i : Instr}
    (h : decodeToken src c = .ok (i, c')) (hc : P c) : P c' := by
  obtain ⟨b, c1, h1, h2, -⟩ | ⟨c1, c2, h1, h2, h⟩ | ⟨c1, c2, h1, h2, h⟩ := decodeToken_cases h
  · exact byte h2 (bit h1 hc)
  · have hc2 : P c2 := bit h2 (bit h1 hc)
    obtain ⟨b0, b1, c3, c4, h3, h4, ⟨-, -, rfl⟩ | ⟨-, -, b2, h5, -⟩ | ⟨-, -, -, rfl⟩⟩ := decodeLong_cases h
    · exact byte h4 (byte h3 hc2)
    · exact byte h5 (byte h4 (byte h3 hc2))
    · exact byte h4 (byte h3 hc2)
  · obtain ⟨lh, ll, d8, c3, c4, h3, h4, h5, -⟩ := decodeShort_cases h
    exact byte h5 (bit h4 (bit h3 (bit h2 (bit h1 hc))))

theorem readByte_keeps {v : Byte} (h : readByte src c = .ok (v, c')) :
    c'.cbLeft = c.cbLeft ∧ c'.dstPos = c.dstPos := by
  obtain ⟨-, rfl⟩ := readByte_ok.1 h
  exact ⟨rfl, rfl⟩

/-- A bit leaves fewer in the control byte, or 7 of a new one (R120). -/
theorem readBit_cbLeft {b : Bool} (h : readBit src c = .ok (b, c')) : c'.cbLeft = c.cbLeft - 1 ∨ c'.cbLeft = 7 := by
  obtain ⟨-, ht⟩ | ⟨-, v, c1, -, ht⟩ := readBit_ok.1 h
  · cases ht; exact .inl rfl
  · cases ht; exact .inr rfl

theorem readBit_dstPos {b : Bool} (h : readBit src c = .ok (b, c')) : c'.dstPos = c.dstPos := by
  obtain ⟨-, ht⟩ | ⟨-, v, c1, hr, ht⟩ := readBit_ok.1 h
  · cases ht; rfl
  · cases ht; exact (readByte_keeps hr).2

theorem decodeToken_cbLeft {i : Instr} (h : decodeToken src c = .ok (i, c')) (hc : c.cbLeft ≤ 8) : c'.cbLeft ≤ 8 := by
  refine decodeToken_keeps (P := fun d => d.cbLeft ≤ 8) (fun hr hd => ?_) (fun hr hd => ?_) h hc
  · rw [(readByte_keeps hr).1]; exact hd
  · have := readBit_cbLeft hr
    omega

theorem decodeToken_dstPos {i : Instr} (h : decodeToken src c = .ok (i, c')) : c'.dstPos = c.dstPos := by
  refine decodeToken_keeps (P := fun d => d.dstPos = c.dstPos) (fun hr hd => ?_) (fun hr hd => ?_) h rfl
  · exact (readByte_keeps hr).2.trans hd
  · exact (readBit_dstPos hr).trans hd

end Sys2Proof
end

section
/-! SUPPORT. The compressor keeps the ranges of its cursor (10_state.md R21, R23), and no step of it takes more source bytes
than there are (40_prs_compressor.md R102-R104). -/

namespace Sys2Proof.Machine

variable {e : Emitter}

/-! ### Emission (R106, R107) -/

theorem Emitter.insertBit_ok (h : e.ok) (hbits : e.cc.cbBits < 8) (b : Bool) : (e.insertBit b).ok := by
  obtain ⟨hpos, -, hlen⟩ := h
  exact ⟨hpos, hbits, hlen⟩

theorem Emitter.openControl_ok (h : e.ok) : e.openControl.ok := by
  obtain ⟨-, -, hlen⟩ := h
  refine ⟨Nat.lt_succ_self _, Nat.zero_le _, ?_⟩
  simp [Emitter.openControl, hlen]

theorem Emitter.putBit_ok (h : e.ok) (b : Bool) : (e.putBit b).ok := by
  unfold Emitter.putBit
  split
  next => exact Emitter.insertBit_ok (Emitter.openControl_ok h) (by decide : 0 < 8) b
  next hne =>
    obtain ⟨-, hbits, -⟩ := id h
    exact Emitter.insertBit_ok h (lt_of_le_of_ne hbits hne) b

theorem Emitter.putByte_ok (h : e.ok) (v : Byte) : (e.putByte v).ok := by
  obtain ⟨hpos, hbits, hlen⟩ := h
  refine ⟨Nat.lt_succ_of_lt hpos, hbits, ?_⟩
  simp [Emitter.putByte, hlen]

theorem Emitter.emitLit_ok (h : e.ok) (b : Byte) : (e.emitLit b).ok :=
  Emitter.putByte_ok (Emitter.putBit_ok h _) _

/-- Each of the three forms is bits, then bytes (R107). -/
theorem Emitter.emitCopy_ok (h : e.ok) (dist : Int) (len : Nat) : (e.emitCopy dist len).ok := by
  have opened : ((e.putBit false).putBit true).ok := Emitter.putBit_ok (Emitter.putBit_ok h _) _
  unfold Emitter.emitCopy
  split
  next =>
    exact Emitter.putByte_ok (Emitter.putBit_ok (Emitter.putBit_ok (Emitter.putBit_ok (Emitter.putBit_ok h _) _) _) _) _
  next =>
    split
    next => exact Emitter.putByte_ok (Emitter.putByte_ok opened _) _
    next => exact Emitter.putByte_ok (Emitter.putByte_ok (Emitter.putByte_ok opened _) _) _

/-! ### Search (R102, R103) -/

theorem commonLength_le (cap : Nat) (as bs : List Byte) : commonLength cap as bs ≤ bs.length := by
  induction cap generalizing as bs with
  | zero => cases as <;> exact Nat.zero_le _
  | succ cap ih =>
    match as, bs with
    | [], _ | _ :: _, [] => exact Nat.zero_le _
    | a :: as, b :: bs =>
      rw [commonLength]
      split
      next => exact Nat.succ_le_succ (ih as bs)
      next => exact Nat.zero_le _

/-- A match ends within the source (R102). -/
theorem matchLen_le (src : List Byte) (x y : Nat) : matchLen src x y ≤ src.length - x := by
  rw [← List.length_drop]
  exact commonLength_le _ _ _

theorem bestMatch_le (window : Nat) (src : List Byte) (x : Nat) : (bestMatch window src x).1 ≤ src.length - x := by
  refine List.foldlRecOn (motive := fun best : Nat × Nat => best.1 ≤ src.length - x) _ _ (Nat.zero_le _) ?_
  intro best hbest k _
  unfold considerMatch
  dsimp only
  split
  next => exact matchLen_le src x _
  next => exact hbest

/-! ### A step (R104) -/

theorem compressStep_ok (window : Nat) (src : List Byte) (h : e.ok) : (compressStep window src e).ok := by
  unfold compressStep
  dsimp only
  split
  next => exact Emitter.emitLit_ok h _
  next => exact Emitter.emitCopy_ok h _ _

theorem compressStep_x_le (window : Nat) {src : List Byte} (hx : e.cc.x < src.length) :
    (compressStep window src e).cc.x ≤ src.length := by
  have hbest := bestMatch_le window src e.cc.x
  unfold compressStep
  dsimp only
  split
  next => exact hx
  next =>
    change e.cc.x + (bestMatch window src e.cc.x).1 ≤ src.length
    omega

end Sys2Proof.Machine
end

section
/-! SUPPORT. Every step keeps the invariant (10_state.md R21-R24, R31-R33; 60_exceptions.md R200): first the updates of the
state, then the tokens, the commands and the step. -/

namespace Sys2Proof.Machine

variable {s t : State} {i : Instr}

/-! ### Updates of the state -/

namespace State.Inv

theorem withMem (h : s.Inv) {m : Memory} (hm : m.wf) : (s.withMem m).Inv := by
  obtain ⟨-, hn, hslots, hstatus, hjob⟩ := h
  exact ⟨hm, hn, hslots, hstatus, hjob⟩

theorem withJob (h : s.Inv) {j : Job} (hj : j.ok s.cfg) : (s.withJob (some j)).Inv := by
  obtain ⟨hm, hn, hslots, hstatus, -⟩ := h
  refine ⟨hm, hn, hslots, hstatus, fun j' hj' => ?_⟩
  cases hj'
  exact hj

theorem withoutJob (h : s.Inv) : (s.withJob none).Inv := by
  obtain ⟨hm, hn, hslots, hstatus, -⟩ := h
  exact ⟨hm, hn, hslots, hstatus, fun j hj => by cases hj⟩

theorem withPort (h : s.Inv) (ws : List Word) : (s.withPort ws).Inv := h

theorem withFreeCount (h : s.Inv) (n : Nat) : (s.withFreeCount n).Inv := h

theorem withOutcome (h : s.Inv) {st : Byte} (hst : st.toNat ≤ 4) (r : Word) : (s.withOutcome st r).Inv := by
  obtain ⟨hm, hn, hslots, -, hjob⟩ := h
  exact ⟨hm, hn, hslots, hst, hjob⟩

theorem withSlot (h : s.Inv) (k : Nat) {c : Context} (hc : c.ok) : (s.withSlot k c).Inv := by
  obtain ⟨hm, hn, hslots, hstatus, hjob⟩ := h
  refine ⟨hm, ?_, fun c' hc' => ?_, hstatus, hjob⟩
  · rw [nCtx_eq, withSlot_slots, List.length_set]
    exact hn
  · obtain hold | rfl := List.mem_or_eq_of_mem_set hc'
    · exact hslots c' hold
    · exact hc

theorem finishOk (h : s.Inv) (w : Word) : (s.finishOk w).Inv := h.withOutcome (st := statusOk) (Nat.zero_le 4) w

/-- The codes of R200 are 1 to 4. -/
theorem finishError (h : s.Inv) (e : ErrorCode) : (s.finishError e).Inv :=
  h.withOutcome (by cases e <;> decide) 0

theorem prsOk (h : s.Inv) (n : Nat) : (s.prsOk n).Inv := (h.withoutJob.finishOk _).withFreeCount _

theorem unspecify (h : s.Inv) (dst : Option Buffer) : (s.unspecify dst).Inv := by
  obtain ⟨hm, -⟩ := id h
  cases dst with
  | none => exact h
  | some d => exact (h.withMem (Memory.writeBytes_wf hm d.base _)).withFreeCount _

theorem prsError (h : s.Inv) (dst : Option Buffer) (e : ErrorCode) : (s.prsError dst e).Inv :=
  ((h.unspecify dst).withoutJob).finishError e

end State.Inv

/-! ### Tokens -/

theorem Walk.hasRoom_iff {w : Walk} {n : Nat} : w.hasRoom n = true ↔ ∀ d ∈ w.dst, w.dc.dstPos + n ≤ d.len := by
  unfold Walk.hasRoom
  cases w.dst <;> simp

/-- The walk in progress is in range (R24). -/
theorem State.Inv.walk (h : s.Inv) {w : Walk} (hj : s.job = some (.decode w)) : w.valid s.cfg = true ∧ w.ok := by
  obtain ⟨-, -, -, -, hjob⟩ := h
  exact hjob _ hj

/-- The walk goes on with output that fits (R133). -/
theorem State.Inv.produced (h : s.Inv) {w : Walk} (hj : s.job = some (.decode w)) {n : Nat}
    (hroom : w.hasRoom n = true) {m : Memory} (hm : m.wf) :
    ((s.withMem m).withJob (some (.decode (w.produced n)))).Inv := by
  obtain ⟨hvalid, hleft, hsrc, -⟩ := h.walk hj
  exact (h.withMem hm).withJob ⟨hvalid, hleft, hsrc, Walk.hasRoom_iff.1 hroom⟩

theorem State.Inv.putOutput (h : s.Inv) {w : Walk} (hj : s.job = some (.decode w)) (hroom : w.hasRoom 1 = true)
    (b : Byte) : (s.putOutput w b).Inv := by
  obtain ⟨hmem, -⟩ := id h
  obtain ⟨m, heq, hm⟩ := s.putOutput_eq w b
  have hwf : m.wf := by
    rw [hm]
    split
    next => exact hmem
    next d _ => exact Memory.write_wf hmem _ _
  rw [heq]
  exact h.produced hj hroom hwf

theorem State.Inv.copyOutput (h : s.Inv) {w : Walk} (hj : s.job = some (.decode w)) (distance : Int) {len : Nat}
    (hroom : w.hasRoom len = true) : (s.copyOutput w distance len).Inv := by
  obtain ⟨hmem, -⟩ := id h
  obtain ⟨m, heq, hm⟩ := s.copyOutput_eq w distance len
  have hwf : m.wf := by
    rw [hm]
    split
    next => exact hmem
    next d _ => exact Memory.copyBytes_wf hmem _ _ _
  rw [heq]
  exact h.produced hj hroom hwf

theorem copyToken_inv (h : s.Inv) {distance : Int} {len : Nat} (hc : copyToken distance len s = .next t) : t.Inv := by
  obtain ⟨w, hj, -, ⟨-, rfl⟩ | ⟨-, hroom, rfl⟩ | ⟨-, -, rfl⟩⟩ := copyToken_next.1 hc
  · exact h.prsError _ _
  · exact h.copyOutput hj distance hroom
  · exact h.prsError _ _

theorem runToken_inv (h : s.Inv) (hr : runToken i s = .next t) : t.Inv := by
  cases i with
  | endStream =>
    obtain ⟨w, -, -, rfl⟩ := execEndStream_next.1 hr
    exact h.prsOk _
  | lcopyt | lcopyh | scopy => exact copyToken_inv h hr
  | lit b =>
    obtain ⟨w, hj, -, ⟨hroom, rfl⟩ | ⟨-, rfl⟩⟩ := execLit_next.1 hr
    · exact h.putOutput hj hroom b
    · exact h.prsError _ _
  | prsCompress | prsDecompress | prsSize | cipherCreateKeys | cipherCrypt | cipherNextWord | cipherRelease => cases hr

/-- A token read moves the cursor within its ranges (R24, R121). -/
theorem Walk.ok_of_decodeToken {w : Walk} (h : w.ok) {m : Memory} {dc : DecodeCursor}
    (hd : decodeToken (w.source m) w.dc = .ok (i, dc)) : Walk.ok { w with dc := dc } := by
  obtain ⟨hleft, -, hroom⟩ := h
  obtain ⟨-, hsrc⟩ := decodeToken_srcPos (w.source_none m) hd
  refine ⟨decodeToken_cbLeft hd hleft, hsrc, fun d hdst => ?_⟩
  change dc.dstPos ≤ d.len
  rw [decodeToken_dstPos hd]
  exact hroom d hdst

theorem walkStep_inv (h : s.Inv) (hw : walkStep s = .next t) : t.Inv := by
  obtain ⟨w, hj, hvalid, ⟨e, -, rfl⟩ | ⟨i, dc, hd, hr⟩⟩ := walkStepWith_next.1 hw
  · exact h.prsError _ _
  · obtain ⟨-, hok⟩ := h.walk hj
    have moved : (s.withJob (some (.decode { w with dc := dc }))).Inv :=
      h.withJob ⟨hvalid, Walk.ok_of_decodeToken hok hd⟩
    exact runToken_inv moved hr

/-! ### Commands -/

/-- A walk starts in range (R25), and each of its rounds keeps the invariant. -/
theorem runDecode_inv (h : s.Inv) {src : Buffer} {dst : Option Buffer}
    (hvalid : (Walk.start src dst).valid s.cfg = true) (hr : runDecode src dst s = .next t) : t.Inv := by
  have start_ok : (Walk.start src dst).ok := ⟨Nat.zero_le _, Nat.zero_le _, fun _ _ => Nat.zero_le _⟩
  have started : (s.withJob (some (.decode (Walk.start src dst)))).Inv := h.withJob ⟨hvalid, start_ok⟩
  exact runWalk_keeps (fun _ _ => walkStep_inv) started hr

theorem deliver_inv (h : s.Inv) (dst : Buffer) (e : Emitter) : (deliver dst e s).Inv := by
  obtain ⟨hmem, -⟩ := id h
  unfold deliver
  split
  next => exact h.prsError _ _
  next => exact (h.withMem (Memory.writeBytes_wf hmem _ _)).prsOk _

theorem compressTick_inv (h : s.Inv) {src dst : Buffer} {e : Emitter} (hj : s.job = some (.compress src dst e))
    (hc : compressTick src dst e s = .next t) : t.Inv := by
  obtain ⟨-, -, -, -, hjob⟩ := id h
  obtain ⟨hsrc, hdst, -, hok⟩ := hjob _ hj
  obtain ⟨-, -, ⟨hx, rfl⟩ | ⟨-, rfl⟩⟩ := compressTick_next.1 hc
  · have hmoved := compressStep_x_le s.cfg.prsWindow (src := s.mem.readBytes src.base src.len) (e := e)
    rw [Memory.readBytes_length] at hmoved
    exact h.withJob ⟨hsrc, hdst, hmoved hx, compressStep_ok _ _ hok⟩
  · exact deliver_inv h dst _

theorem State.Inv.slot (h : s.Inv) {k : Nat} {c : Context} (hc : s.slots[k]? = some c) : c.ok := by
  obtain ⟨-, -, hslots, -⟩ := h
  exact hslots c (List.mem_of_getElem? hc)

theorem State.Inv.afterCrypt (h : s.Inv) (k : Nat) {done : Memory × Context} (hm : done.1.wf) (hc : done.2.ok) :
    (s.afterCrypt k done).Inv :=
  ((h.withMem hm).withSlot k hc).finishOk 0

theorem State.Inv.afterDraw (h : s.Inv) (k : Nat) {drawn : Word × Context} (hc : drawn.2.ok) :
    (s.afterDraw k drawn).Inv :=
  (h.withSlot k hc).finishOk _

theorem Context.release_ok {c : Context} (h : c.ok) : Context.ok { c with variant := .none } := by
  obtain ⟨hpc, hgc, -, -⟩ := h
  refine ⟨hpc, hgc, ?_, ?_⟩ <;> intro hv <;> cases hv

theorem exec_inv (h : s.Inv) (he : exec i s = .next t) : t.Inv := by
  obtain ⟨hmem, -⟩ := id h
  cases i with
  | endStream | lcopyt | lcopyh | scopy | lit => exact runToken_inv h ((exec_of_isToken rfl s).symm.trans he)
  | prsCompress var slot sb sl db dc =>
    obtain ⟨-, -, -, rfl⟩ := execPrsCompress_next.1 he
    exact deliver_inv h _ _
  | prsDecompress var slot sb sl db dc =>
    obtain ⟨-, -, ⟨hsrc, hdst, -⟩, hrun⟩ := execPrsDecompress_next.1 he
    exact runDecode_inv h (by simp [Walk.valid, Walk.start, hsrc, hdst]) hrun
  | prsSize var slot sb sl =>
    obtain ⟨-, -, hsrc, hrun⟩ := execPrsSize_next.1 he
    exact runDecode_inv h (by simpa [Walk.valid, Walk.start] using hsrc) hrun
  | cipherCreateKeys var slot seed =>
    obtain ⟨ctx, hctx, ⟨-, rfl⟩ | ⟨-, rfl⟩ | ⟨-, rfl⟩⟩ := execCipherCreateKeys_next.1 he
    · exact (h.withSlot _ (pcCreateKeys_ok _ _ (h.slot hctx))).finishOk 0
    · exact (h.withSlot _ (gcCreateKeys_ok _ _ (h.slot hctx))).finishOk 0
    · exact h.finishError _
  | cipherCrypt var slot bb bl flags =>
    obtain ⟨-, -, ctx, hctx, ⟨-, rfl⟩ | ⟨hv, rfl⟩ | ⟨hv, rfl⟩⟩ := execCipherCrypt_next.1 he
    · exact h.finishError _
    · obtain ⟨-, hok⟩ := pcTransform_ok (bufferOf bb bl) s.mem ⟨hv, h.slot hctx⟩
      exact h.afterCrypt _ (transformWords_wf _ _ _ hmem _) hok
    · obtain ⟨-, hok⟩ := gcTransform_ok (bufferOf bb bl) s.mem ⟨hv, h.slot hctx⟩
      exact h.afterCrypt _ (transformWords_wf _ _ _ hmem _) hok
  | cipherNextWord var slot =>
    obtain ⟨-, ctx, hctx, ⟨-, rfl⟩ | ⟨hv, rfl⟩ | ⟨hv, rfl⟩⟩ := execCipherNextWord_next.1 he
    · exact h.finishError _
    · obtain ⟨-, hok⟩ := pcNextWord_ok ⟨hv, h.slot hctx⟩
      exact h.afterDraw _ hok
    · obtain ⟨-, hok⟩ := gcNextWord_ok ⟨hv, h.slot hctx⟩
      exact h.afterDraw _ hok
  | cipherRelease var slot =>
    obtain ⟨-, ctx, hctx, rfl⟩ := execCipherRelease_next.1 he
    exact (h.withSlot _ (Context.release_ok (h.slot hctx))).finishOk 0

/-- Settles O54, by the three kinds of step. -/
theorem stepKeepsInvariant : Obligations.StepKeepsInvariant := by
  intro s t h hstep
  obtain ⟨w, -, hw⟩ | ⟨src, dst, e, hj, hc⟩ | ⟨-, hi⟩ := step_next.1 hstep
  · exact walkStep_inv h ((walkStepWith_exec s).symm.trans hw)
  · exact compressTick_inv h hj hc
  · obtain ⟨-, rfl⟩ | ⟨i, s', hfetch, he⟩ := commandStepWith_next.1 hi
    · exact h
    · obtain ⟨rest, -, rfl⟩ := fetchCommand_command.1 hfetch
      exact exec_inv (h.withPort rest) he

end Sys2Proof.Machine
end

section
/-! SUPPORT. The refusals of the PRS commands, in the order of R110, R140 and R141: reserved fields, then buffers (20_memory.md
R50), then overlap (20_memory.md R58). -/

namespace Sys2Proof.Machine

variable {s : State} {var : Byte} {slot : Half} {sb sl db dc : Word}

/-! ### Buffers (R50, R58) -/

theorem Buffer.valid_eq_false {cfg : Config} {b : Buffer} :
    b.valid cfg = false ↔ cfg.maxLen < b.len ∨ 2 ^ cfg.addrBits < b.stop := by
  simp only [Buffer.valid, Bool.and_eq_false_iff, decide_eq_false_iff_not, Nat.not_le]

theorem bufferOf_valid_eq_false {cfg : Config} :
    (bufferOf sb sl).valid cfg = false ↔ cfg.maxLen < sl.toNat ∨ 2 ^ cfg.addrBits < sb.toNat + sl.toNat :=
  Buffer.valid_eq_false

/-- A shared byte lies at or after both bases and before both ends (R58). -/
theorem Buffer.overlaps_of_covers {a b : Buffer} {x : Nat} (ha : a.covers x) (hb : b.covers x) : a.overlaps b = true := by
  obtain ⟨ha_base, ha_stop⟩ := ha
  obtain ⟨hb_base, hb_stop⟩ := hb
  exact decide_eq_true ((max_le ha_base hb_base).trans_lt (lt_min ha_stop hb_stop))

/-! ### Reserved fields: checked before any operand (R110, R140, R141) -/

theorem onPrsFields_reserved (h : var ≠ 0 ∨ slot ≠ 0) (k : Result) : onPrsFields var slot k = .refused .reservedField :=
  if_pos h

/-! ### Buffers: checked next -/

theorem execPrsSize_badBuffer (hsrc : (bufferOf sb sl).valid s.cfg = false) :
    execPrsSize 0 0 sb sl s = .refused .badBuffer := by
  simp [execPrsSize, hsrc]

theorem execPrsCompress_badBuffer
    (h : (bufferOf sb sl).valid s.cfg = false ∨ (bufferOf db dc).valid s.cfg = false) :
    execPrsCompress 0 0 sb sl db dc s = .refused .badBuffer := by
  simp [execPrsCompress, h]

theorem execPrsDecompress_badBuffer
    (h : (bufferOf sb sl).valid s.cfg = false ∨ (bufferOf db dc).valid s.cfg = false) :
    execPrsDecompress 0 0 sb sl db dc s = .refused .badBuffer := by
  simp [execPrsDecompress, h]

/-! ### Overlap: checked last -/

theorem execPrsCompress_overlap (hsrc : (bufferOf sb sl).valid s.cfg = true) (hdst : (bufferOf db dc).valid s.cfg = true)
    (hov : (bufferOf sb sl).overlaps (bufferOf db dc) = true) :
    execPrsCompress 0 0 sb sl db dc s = .refused .overlap := by
  simp [execPrsCompress, hsrc, hdst, hov]

theorem execPrsDecompress_overlap (hsrc : (bufferOf sb sl).valid s.cfg = true) (hdst : (bufferOf db dc).valid s.cfg = true)
    (hov : (bufferOf sb sl).overlaps (bufferOf db dc) = true) :
    execPrsDecompress 0 0 sb sl db dc s = .refused .overlap := by
  simp [execPrsDecompress, hsrc, hdst, hov]

/-- Settles O36, check by check. -/
theorem prsRefusalOrder : Obligations.PrsRefusalOrder := by
  intro s var slot sb sl db dc
  refine ⟨fun hfields => ?reserved, fun hsrc => ?sizeBuffer, fun hbuffers => ?badBuffer, ?overlap⟩
  case reserved =>
    exact ⟨onPrsFields_reserved hfields _, onPrsFields_reserved hfields _, onPrsFields_reserved hfields _⟩
  case sizeBuffer => exact execPrsSize_badBuffer (bufferOf_valid_eq_false.2 hsrc)
  case badBuffer =>
    have hinvalid : (bufferOf sb sl).valid s.cfg = false ∨ (bufferOf db dc).valid s.cfg = false := by
      rw [bufferOf_valid_eq_false, bufferOf_valid_eq_false, or_assoc]
      exact hbuffers
    exact ⟨execPrsCompress_badBuffer hinvalid, execPrsDecompress_badBuffer hinvalid⟩
  case overlap =>
    rintro hsrc hdst ⟨a, ha, hb⟩
    have hov := Buffer.overlaps_of_covers ha hb
    exact ⟨execPrsCompress_overlap hsrc hdst hov, execPrsDecompress_overlap hsrc hdst hov⟩

end Sys2Proof.Machine
end

section
/-! SUPPORT. The fields of a command word and of the long form, put together and taken apart (30_encoding.md R76,
R84). -/

namespace Sys2Proof

/-! ### The command word (R84) -/

theorem cwVar_commandWord (op var : Byte) (slot : Half) : cwVar (commandWord op var slot) = var := by
  refine BitVec.eq_of_getLsbD_eq fun i hi => ?_
  have hlow : i < 32 ∧ 8 + i < 32 ∧ ¬ 8 + i < 8 ∧ 8 + i < 16 := by omega
  simp [cwVar, commandWord, hi, hlow]

theorem cwSlot_commandWord (op var : Byte) (slot : Half) : cwSlot (commandWord op var slot) = slot := by
  refine BitVec.eq_of_getLsbD_eq fun i hi => ?_
  have hlow : i < 32 ∧ 16 + i < 32 ∧ ¬ 16 + i < 16 := by omega
  have hop : op.getLsbD (16 + i) = false := BitVec.getLsbD_of_ge _ _ (by omega)
  have hvar : var.getLsbD (16 + i - 8) = false := BitVec.getLsbD_of_ge _ _ (by omega)
  simp [cwSlot, commandWord, hi, hlow, hop, hvar]

/-- Each bit of a command word lies in one of its three fields. -/
theorem commandWord_fields (cw : Word) : commandWord (cwOp cw) (cwVar cw) (cwSlot cw) = cw := by
  refine BitVec.eq_of_getLsbD_eq fun i hi => ?_
  have hfield : i < 8 ∨ (8 ≤ i ∧ i < 16) ∨ 16 ≤ i := by omega
  unfold commandWord cwOp cwVar cwSlot
  rcases hfield with h | ⟨h, h'⟩ | h <;> simp <;> grind

/-! ### The long-form field (R76) -/

theorem le16_lowByte_highByte (v : Half) : le16 (lowByte v) (highByte v) = v := by
  refine BitVec.eq_of_getLsbD_eq fun i hi => ?_
  have hbyte : i < 8 ∨ 8 ≤ i := by omega
  unfold le16 lowByte highByte
  rcases hbyte with h | h <;> simp <;> grind

@[simp] theorem lengthCode_longField (c : BitVec 3) (q : BitVec 13) : lengthCode (longField c q) = c := by
  refine BitVec.eq_of_getLsbD_eq fun i hi => ?_
  have hlow : i < 16 := by omega
  simp [lengthCode, longField, hi, hlow]

@[simp] theorem distanceCode_longField (c : BitVec 3) (q : BitVec 13) : distanceCode (longField c q) = q := by
  refine BitVec.eq_of_getLsbD_eq fun i hi => ?_
  have hlow : i < 16 ∧ 3 + i < 16 ∧ ¬ 3 + i < 3 := by omega
  simp [distanceCode, longField, hi, hlow]

theorem longField_fields (v : Half) : longField (lengthCode v) (distanceCode v) = v := by
  refine BitVec.eq_of_getLsbD_eq fun i hi => ?_
  have hfield : i < 3 ∨ 3 ≤ i := by omega
  unfold longField lengthCode distanceCode
  rcases hfield with h | h <;> simp <;> grind

/-- `V = 0` is the one value both whose fields are 0 (R79, R81). -/
theorem longField_eq_zero {c : BitVec 3} {q : BitVec 13} : longField c q = 0 ↔ c = 0 ∧ q = 0 := by
  constructor
  · intro h
    have hc := lengthCode_longField c q
    have hq := distanceCode_longField c q
    rw [h] at hc hq
    exact ⟨hc.symm, hq.symm⟩
  · rintro ⟨rfl, rfl⟩
    rfl

end Sys2Proof
end

section
/-! SUPPORT. A token is read back from its control bits and its data bytes (30_encoding.md R75, R80), and a command from
its words (R84, R85). The obligations on encoding and decoding. -/

namespace Sys2Proof

variable {src : Nat → Option Byte} {c c' c1 c2 : DecodeCursor}

/-! ### Reading a sequence of control bits, and one of data bytes -/

/-- The decoder reads the control bits `bits`, from one cursor to the other (R120). -/
def ReadsBits (src : Nat → Option Byte) : List Bool → DecodeCursor → DecodeCursor → Prop
  | [], c, c' => c' = c
  | b :: bs, c, c' => ∃ c1, readBit src c = .ok (b, c1) ∧ ReadsBits src bs c1 c'

/-- The decoder reads the data bytes `bytes`, from one cursor to the other (R121). -/
def ReadsBytes (src : Nat → Option Byte) : List Byte → DecodeCursor → DecodeCursor → Prop
  | [], c, c' => c' = c
  | v :: vs, c, c' => ∃ c1, readByte src c = .ok (v, c1) ∧ ReadsBytes src vs c1 c'

/-- The data bytes of the three forms that open with `0,1` (R80). -/
theorem decodeLong_of_reads {i : Instr} (hwf : i.WellFormed) (hbits : controlBits i = [false, true])
    (h : ReadsBytes src (dataBytes i) c c') : decodeLong src c = .ok (i, c') := by
  cases i with
  | endStream =>
    obtain ⟨c1, h0, c2, h1, rfl⟩ := h
    exact bind_eq_ok.2 ⟨_, h0, bind_eq_ok.2 ⟨_, h1, rfl⟩⟩
  | lcopyt q b2 =>
    obtain ⟨c1, h0, c2, h1, c3, h2, rfl⟩ := h
    have hv : longField 0 q ≠ 0 := fun hv => by
      obtain ⟨-, rfl⟩ := longField_eq_zero.1 hv
      cases hwf
    refine bind_eq_ok.2 ⟨_, h0, bind_eq_ok.2 ⟨_, h1, ?_⟩⟩
    dsimp only
    rw [le16_lowByte_highByte, if_neg hv, if_pos (lengthCode_longField 0 q), distanceCode_longField]
    exact bind_eq_ok.2 ⟨_, h2, rfl⟩
  | lcopyh k q =>
    obtain ⟨c1, h0, c2, h1, rfl⟩ := h
    have hk : k ≠ 0 := by
      rintro rfl
      cases hwf
    have hv : longField k q ≠ 0 := fun hv => hk (longField_eq_zero.1 hv).1
    refine bind_eq_ok.2 ⟨_, h0, bind_eq_ok.2 ⟨_, h1, ?_⟩⟩
    dsimp only
    rw [le16_lowByte_highByte, lengthCode_longField, distanceCode_longField, if_neg hv, if_neg hk]
    rfl
  | scopy | lit | prsCompress | prsDecompress | prsSize | cipherCreateKeys | cipherCrypt | cipherNextWord
  | cipherRelease => cases hbits

theorem lengthBits_getLsbD (l : BitVec 2) : lengthBits (l.getLsbD 1) (l.getLsbD 0) = l := by
  revert l; decide

/-- Every well-formed token is what its control bits and data bytes decode to (R80, R82). -/
theorem decodeToken_of_reads {i : Instr} (htoken : i.isToken = true) (hwf : i.WellFormed)
    (hbits : ReadsBits src (controlBits i) c c1) (hbytes : ReadsBytes src (dataBytes i) c1 c') :
    decodeToken src c = .ok (i, c') := by
  have long (hc : controlBits i = [false, true]) : decodeToken src c = .ok (i, c') := by
    rw [hc] at hbits
    obtain ⟨c2, h0, c3, h1, rfl⟩ := hbits
    exact bind_eq_ok.2 ⟨_, h0, bind_eq_ok.2 ⟨_, h1, decodeLong_of_reads hwf hc hbytes⟩⟩
  cases i with
  | endStream | lcopyt | lcopyh => exact long rfl
  | scopy l d8 =>
    obtain ⟨c2, h0, c3, h1, c4, h2, c5, h3, rfl⟩ := hbits
    obtain ⟨c6, h4, rfl⟩ := hbytes
    refine bind_eq_ok.2 ⟨_, h0, bind_eq_ok.2 ⟨_, h1, ?_⟩⟩
    refine bind_eq_ok.2 ⟨_, h2, bind_eq_ok.2 ⟨_, h3, bind_eq_ok.2 ⟨_, h4, ?_⟩⟩⟩
    rw [lengthBits_getLsbD]
    rfl
  | lit b =>
    obtain ⟨c2, h0, rfl⟩ := hbits
    obtain ⟨c3, h1, rfl⟩ := hbytes
    exact bind_eq_ok.2 ⟨_, h0, bind_eq_ok.2 ⟨_, h1, rfl⟩⟩
  | prsCompress | prsDecompress | prsSize | cipherCreateKeys | cipherCrypt | cipherNextWord | cipherRelease =>
    cases htoken

/-! ### A token as a stream of its own (R72-R74) -/

/-- Bit `j` of a packed control byte is the `j`th control bit; the unused high bits are 0 (R72, R74). -/
theorem packControl_getLsbD (bits : List Bool) (j : Nat) :
    (packControl bits).getLsbD j = (decide (j < 8) && bits.getD j false) := by
  induction bits generalizing j with
  | nil => simp [packControl]
  | cons b bs ih =>
    have hcons : packControl (b :: bs) = (packControl bs <<< 1) ||| (BitVec.ofBool b).setWidth 8 := rfl
    rw [hcons]
    cases j with
    | zero => simp
    | succ j => simp [ih]; grind

/-- Up to 8 control bits come out of one control byte, first bit first (R120). -/
theorem readsBits_of_control {bits : List Bool} (hleft : bits.length ≤ c.cbLeft)
    (h : ∀ j (hj : j < bits.length), c.cbVal.getLsbD j = bits[j]) :
    ReadsBits src bits c { c with cbVal := c.cbVal >>> bits.length, cbLeft := c.cbLeft - bits.length } := by
  induction bits generalizing c with
  | nil => simp [ReadsBits]
  | cons b bs ih =>
    have hbit : readBit src c = .ok (b, { c with cbVal := c.cbVal >>> 1, cbLeft := c.cbLeft - 1 }) := by
      refine readBit_ok.2 (.inl ⟨by simp at hleft; omega, ?_⟩)
      have hfirst : c.cbVal.getLsbD 0 = b := h 0 (Nat.succ_pos _)
      rw [takeBit, hfirst]
    refine ⟨_, hbit, ?_⟩
    have hrest := ih (c := { c with cbVal := c.cbVal >>> 1, cbLeft := c.cbLeft - 1 })
      (by simp at hleft ⊢; omega) fun j hj => by
        have hnext := h (j + 1) (Nat.succ_lt_succ hj)
        simpa [Nat.add_comm 1 j] using hnext
    simpa [BitVec.shiftRight_add, Nat.add_comm bs.length 1, Nat.sub_sub] using hrest

theorem readsBytes_of_suffix {all bytes : List Byte} (h : all.drop c.srcPos = bytes) :
    ReadsBytes (byteSource all) bytes c { c with srcPos := c.srcPos + bytes.length } := by
  induction bytes generalizing c with
  | nil => simp [ReadsBytes]
  | cons v vs ih =>
    have hv : all[c.srcPos]? = some v := by rw [← List.head?_drop, h]; rfl
    have hrest := ih (c := { c with srcPos := c.srcPos + 1 }) (by simp [← List.drop_drop, h])
    exact ⟨_, readByte_ok.2 ⟨hv, rfl⟩, by simpa [Nat.add_assoc, Nat.add_comm 1] using hrest⟩

/-- The first bit read opens the control byte (R73, R120). -/
theorem readBit_opened {v : Byte} (hleft : c.cbLeft = 0) (h : readByte src c = .ok (v, c1)) :
    readBit src c = readBit src { c1 with cbVal := v, cbLeft := 8 } := by
  simp [readBit, hleft, h]

theorem readsBits_opened {v : Byte} {bits : List Bool} (hleft : c.cbLeft = 0) (h : readByte src c = .ok (v, c1))
    (hne : bits ≠ []) (hr : ReadsBits src bits { c1 with cbVal := v, cbLeft := 8 } c') : ReadsBits src bits c c' := by
  cases bits with
  | nil => exact absurd rfl hne
  | cons b bs =>
    obtain ⟨c2, hb, hbs⟩ := hr
    exact ⟨c2, (readBit_opened hleft h).trans hb, hbs⟩

theorem controlBits_length {i : Instr} (h : i.isToken = true) : controlBits i ≠ [] ∧ (controlBits i).length ≤ 8 := by
  cases i <;> simp [controlBits] <;> cases h

/-- A well-formed token's own stream decodes to it: the control byte, then the data bytes. -/
theorem decode_tokenStream {i : Instr} (htoken : i.isToken = true) (hwf : i.WellFormed) :
    decode (.stream (tokenStream i)) = .ok i := by
  obtain ⟨hne, hlen⟩ := controlBits_length htoken
  have hcontrol : readByte (byteSource (tokenStream i)) DecodeCursor.start =
      .ok (packControl (controlBits i), { DecodeCursor.start with srcPos := 1 }) := readByte_ok.2 ⟨rfl, rfl⟩
  have hbits := readsBits_of_control (src := byteSource (tokenStream i))
    (c := { DecodeCursor.start with srcPos := 1, cbVal := packControl (controlBits i), cbLeft := 8 }) hlen
    fun j hj => by
      rw [packControl_getLsbD, decide_eq_true (hj.trans_le hlen), Bool.true_and, List.getD_eq_getElem _ _ hj]
  rw [decode, decodeToken_of_reads htoken hwf (readsBits_opened rfl hcontrol hne hbits)
    (readsBytes_of_suffix (all := tokenStream i) rfl)]
  rfl

/-! ### Commands (R84, R85) -/

/-- A command's words, with any words after them, decode to the command: its fields and operand words are kept. -/
theorem decodeCommand_commandWords {i : Instr} (h : i.isToken = false) (rest : List Word) :
    decodeCommand (commandWords i ++ rest) = .ok (i, rest) := by
  cases i with
  | endStream | lcopyt | lcopyh | scopy | lit => cases h
  | prsCompress | prsDecompress | prsSize | cipherCreateKeys | cipherCrypt | cipherNextWord | cipherRelease =>
    simp [commandWords, decodeCommand, decodeOperands, Laws.cwOp_commandWord, cwVar_commandWord, cwSlot_commandWord]

/-- Settles O1: a token by reading its stream, a command by reading its words. -/
theorem decodeInvertsEncode : Obligations.DecodeInvertsEncode := by
  intro i hwf
  unfold encode
  cases htoken : i.isToken with
  | true => exact decode_tokenStream htoken (hwf htoken)
  | false =>
    have hwords := decodeCommand_commandWords htoken []
    rw [List.append_nil] at hwords
    simp [decode, hwords, Except.map]

/-- Whatever command the words give, its own words are the ones read (R85). -/
theorem commandWords_of_decodeOperands {op var : Byte} {slot : Half} {ws rest : List Word} {i : Instr}
    (h : decodeOperands op var slot ws = .ok (i, rest)) :
    i.isToken = false ∧ commandWords i ++ rest = commandWord op var slot :: ws := by
  unfold decodeOperands at h
  split_ifs at h
  case pos | pos | pos | pos | pos =>
    split at h <;> cases h
    subst op
    exact ⟨rfl, rfl⟩
  case pos | pos =>
    cases h
    subst op
    exact ⟨rfl, rfl⟩

/-- Settles O2: the command word is its three fields, the operand words are taken in order. -/
theorem commandWordsReadBack : Obligations.CommandWordsReadBack := by
  intro ws i rest h
  cases ws with
  | nil => cases h
  | cons cw ws =>
    have hwords := commandWords_of_decodeOperands h
    rwa [commandWord_fields] at hwords

/-- Settles O5, by running the decoder on each. -/
theorem writtenWordsDecode : Obligations.WrittenWordsDecode := by
  unfold Obligations.WrittenWordsDecode
  decide

end Sys2Proof
end

section
/-! SUPPORT. What the token decoder gives: well-formed tokens only, each of them ending with a data byte (30_encoding.md
R80, R81; 41_prs_decompressor.md R134). -/

namespace Sys2Proof

variable {src : Nat → Option Byte} {c c' : DecodeCursor}

theorem wellFormed_of_decodeLong {i : Instr} (h : decodeLong src c = .ok (i, c')) : i.WellFormed := by
  obtain ⟨b0, b1, c1, c2, -, -, ⟨-, rfl, -⟩ | ⟨hv, hk, b2, -, rfl⟩ | ⟨-, hk, rfl, -⟩⟩ := decodeLong_cases h
  · rfl
  · have hq : distanceCode (le16 b0 b1) ≠ 0 := fun hq => hv (by rw [← longField_fields (le16 b0 b1), hk, hq]; rfl)
    exact if_neg hq
  · exact if_neg hk

theorem wellFormed_of_decodeToken {i : Instr} (h : decodeToken src c = .ok (i, c')) : i.WellFormed := by
  obtain ⟨b, c1, -, -, rfl⟩ | ⟨c1, c2, -, -, h⟩ | ⟨c1, c2, -, -, h⟩ := decodeToken_cases h
  · rfl
  · exact wellFormed_of_decodeLong h
  · obtain ⟨lh, ll, d8, c3, c4, -, -, -, rfl⟩ := decodeShort_cases h
    rfl

theorem readByte_srcPos_eq {v : Byte} (h : readByte src c = .ok (v, c')) : c'.srcPos = c.srcPos + 1 := by
  obtain ⟨-, rfl⟩ := readByte_ok.1 h
  rfl

theorem readBit_srcPos_le {b : Bool} (h : readBit src c = .ok (b, c')) : c.srcPos ≤ c'.srcPos := by
  obtain ⟨-, ht⟩ | ⟨-, v, c1, hr, ht⟩ := readBit_ok.1 h
  · cases ht
    exact le_rfl
  · have hc1 := readByte_srcPos_eq hr
    cases ht
    exact (Nat.le_succ _).trans hc1.ge

/-- A token ends with a data byte, whatever the source (R75, R134). -/
theorem decodeToken_srcPos_lt {i : Instr} (h : decodeToken src c = .ok (i, c')) : c.srcPos < c'.srcPos := by
  have reads_byte : ∃ c1 v, c.srcPos ≤ c1.srcPos ∧ readByte src c1 = .ok (v, c') := by
    obtain ⟨b, c1, h1, h2, -⟩ | ⟨c1, c2, h1, h2, h⟩ | ⟨c1, c2, h1, h2, h⟩ := decodeToken_cases h
    · exact ⟨c1, b, readBit_srcPos_le h1, h2⟩
    · have hc2 := (readBit_srcPos_le h1).trans (readBit_srcPos_le h2)
      obtain ⟨b0, b1, c3, c4, h3, h4, ⟨-, -, rfl⟩ | ⟨-, -, b2, h5, -⟩ | ⟨-, -, -, rfl⟩⟩ := decodeLong_cases h
      all_goals
        have hc3 := readByte_srcPos_eq h3
        have hc4 := readByte_srcPos_eq h4
      · exact ⟨c3, b1, by omega, h4⟩
      · exact ⟨c4, b2, by omega, h5⟩
      · exact ⟨c3, b1, by omega, h4⟩
    · have hc2 := (readBit_srcPos_le h1).trans (readBit_srcPos_le h2)
      obtain ⟨lh, ll, d8, c3, c4, h3, h4, h5, -⟩ := decodeShort_cases h
      exact ⟨c4, d8, hc2.trans ((readBit_srcPos_le h3).trans (readBit_srcPos_le h4)), h5⟩
  obtain ⟨c1, v, hle, hr⟩ := reads_byte
  have hc' := readByte_srcPos_eq hr
  omega

/-- Settles O3, clause by clause. -/
theorem decodedTokenIsWellFormed : Obligations.DecodedTokenIsWellFormed := fun _ _ _ _ h =>
  ⟨isToken_of_decodeToken h, wellFormed_of_decodeToken h, decodeToken_srcPos_lt h, decodeToken_dstPos h,
    decodeToken_cbLeft h⟩

end Sys2Proof
end

section
/-! SUPPORT. The token key: the row it selects, and that row's stream (30_encoding.md R82; log 7). -/

namespace Sys2Proof

/-- The row of the opcode table that a token key selects, with 0 for the data byte that the key does not number. -/
def keyRow (k : BitVec 18) : Instr :=
  if k &&& 0x3FFFF = 0x2 then .endStream
  else if k &&& 0x1F = 0x2 then .lcopyt (k.extractLsb' 5 13) 0
  else if k &&& 0x3 = 0x2 then .lcopyh (k.extractLsb' 2 3) (k.extractLsb' 5 13)
  else if k &&& 0x3 = 0x0 then .scopy (lengthBits (k.getLsbD 2) (k.getLsbD 3)) 0
  else .lit 0

theorem keyRow_isToken (k : BitVec 18) : (keyRow k).isToken = true := by
  unfold keyRow; split_ifs <;> rfl

theorem key_bit0 (k : BitVec 18) : k.getLsbD 0 = decide (k.toNat % 2 = 1) := by
  simp [BitVec.getLsbD, Nat.testBit_zero]

theorem key_bit1 (k : BitVec 18) : k.getLsbD 1 = decide (k.toNat / 2 % 2 = 1) := by
  simp [BitVec.getLsbD, Nat.testBit_eq_decide_div_mod_eq]

/-- A mask of low ones compares the key's remainder. -/
theorem key_masked_eq {k mask row : BitVec 18} {n : Nat} (hmask : mask.toNat = 2 ^ n - 1) :
    k &&& mask = row ↔ k.toNat % 2 ^ n = row.toNat := by
  rw [← BitVec.toNat_inj, BitVec.toNat_and, hmask, Nat.and_two_pow_sub_one_eq_mod]

theorem key_field_eq_zero (k : BitVec 18) (n : Nat) : k.extractLsb' 2 n = 0 ↔ k.toNat / 4 % 2 ^ n = 0 := by
  rw [← BitVec.toNat_inj, BitVec.extractLsb'_toNat, Nat.shiftRight_eq_div_pow]
  simp

theorem lengthCode_key (k : BitVec 18) : lengthCode (k.extractLsb' 2 16) = k.extractLsb' 2 3 := by
  refine BitVec.eq_of_getLsbD_eq fun i hi => ?_
  have hlow : i < 16 := by omega
  simp [lengthCode, hi, hlow]

theorem distanceCode_key (k : BitVec 18) : distanceCode (k.extractLsb' 2 16) = k.extractLsb' 5 13 := by
  refine BitVec.eq_of_getLsbD_eq fun i hi => ?_
  have hlow : 3 + i < 16 := by omega
  simp [distanceCode, hi, hlow, ← Nat.add_assoc]

/-- The stream of a key of 18 bits, its extra data byte 0. -/
theorem keyStream_setWidth (k : BitVec 18) : keyStream (k.setWidth 26) =
    if k.getLsbD 0 then [packControl [true], 0]
    else if k.getLsbD 1 then
      packControl [false, true] :: lowByte (k.extractLsb' 2 16) :: highByte (k.extractLsb' 2 16) ::
        (if k.extractLsb' 2 16 ≠ 0 ∧ k.extractLsb' 2 3 = 0 then [0] else [])
    else [packControl [false, false, k.getLsbD 2, k.getLsbD 3], 0] := by
  have hextra : (k.setWidth 26).extractLsb' 18 8 = 0 := by
    refine BitVec.eq_of_getLsbD_eq fun i hi => ?_
    simp
  have hfield : (k.setWidth 26).extractLsb' 2 16 = k.extractLsb' 2 16 := by
    refine BitVec.eq_of_getLsbD_eq fun i hi => ?_
    have hlow : 2 + i < 26 := by omega
    simp [hi, hlow]
  rw [keyStream, hextra, hfield, lengthCode_key]
  simp

/-- The row by the bits of the key: its control bits, then whether `V` and its length code are 0 (R82). -/
theorem keyRow_eq (k : BitVec 18) : keyRow k =
    if k.getLsbD 0 then .lit 0
    else if k.getLsbD 1 then
      if k.extractLsb' 2 16 = 0 then .endStream
      else if k.extractLsb' 2 3 = 0 then .lcopyt (k.extractLsb' 5 13) 0
      else .lcopyh (k.extractLsb' 2 3) (k.extractLsb' 5 13)
    else .scopy (lengthBits (k.getLsbD 2) (k.getLsbD 3)) 0 := by
  have hend : k &&& 0x3FFFF = 0x2 ↔ k.toNat % 2 ^ 18 = 2 := key_masked_eq rfl
  have htrailer : k &&& 0x1F = 0x2 ↔ k.toNat % 2 ^ 5 = 2 := key_masked_eq rfl
  have hlong : k &&& 0x3 = 0x2 ↔ k.toNat % 2 ^ 2 = 2 := key_masked_eq rfl
  have hshort : k &&& 0x3 = 0x0 ↔ k.toNat % 2 ^ 2 = 0 := key_masked_eq rfl
  have hk := k.isLt
  simp only [keyRow, hend, htrailer, hlong, hshort, key_bit0, key_bit1, key_field_eq_zero, decide_eq_true_eq]
  grind

theorem keyRow_wellFormed (k : BitVec 18) : (keyRow k).WellFormed := by
  rw [keyRow_eq]
  split_ifs with h0 h1 hv hc
  · rfl
  · rfl
  · refine if_neg fun hq => hv ?_
    rw [← longField_fields (k.extractLsb' 2 16), lengthCode_key, distanceCode_key, hc, hq]
    rfl
  · exact if_neg hc
  · rfl

theorem lengthBits_bits (lh ll : Bool) :
    (lengthBits lh ll).getLsbD 1 = lh ∧ (lengthBits lh ll).getLsbD 0 = ll := by
  revert lh ll; decide

/-- The key's stream is the row's own (R75, R82). -/
theorem tokenStream_keyRow (k : BitVec 18) : tokenStream (keyRow k) = keyStream (k.setWidth 26) := by
  have hfield : longField (k.extractLsb' 2 3) (k.extractLsb' 5 13) = k.extractLsb' 2 16 := by
    rw [← lengthCode_key, ← distanceCode_key, longField_fields]
  rw [keyRow_eq, keyStream_setWidth]
  cases k.getLsbD 0 with
  | true => rfl
  | false =>
    cases k.getLsbD 1 with
    | false =>
      obtain ⟨hlh, hll⟩ := lengthBits_bits (k.getLsbD 2) (k.getLsbD 3)
      change tokenStream (.scopy (lengthBits (k.getLsbD 2) (k.getLsbD 3)) 0) = _
      rw [tokenStream, controlBits, hlh, hll]
      rfl
    | true =>
      simp only [Bool.false_eq_true, if_false, if_true]
      by_cases hv : k.extractLsb' 2 16 = 0
      · rw [hv]
        rfl
      · by_cases hc : k.extractLsb' 2 3 = 0
        · rw [hc] at hfield
          rw [if_neg hv, if_pos hc, if_pos ⟨hv, hc⟩, tokenStream, dataBytes, hfield]
          rfl
        · rw [if_neg hv, if_neg hc, if_neg fun h => hc h.2, tokenStream, dataBytes, hfield]
          rfl

/-- Settles O4: a key's stream is the one of its row, which is well formed, so it decodes to the row. -/
theorem tokenKeySelectsRow : Obligations.TokenKeySelectsRow := by
  intro k
  have hstream : tableWord 24 k.toNat = .stream (tokenStream (keyRow k)) := by
    rw [tokenStream_keyRow, ← BitVec.ofNat_toNat]
    rfl
  rw [decodeTableWord, hstream, decode_tokenStream (keyRow_isToken k) (keyRow_wellFormed k)]
  rfl

end Sys2Proof
end

section
/-! SUPPORT. The compressor's operand bytes (30_encoding.md R77, R78) are those the encoder writes, for the instruction
that R105 chooses; the bits and bytes of a copy as emitted (40_prs_compressor.md R107). -/

namespace Sys2Proof.Machine

/-! ### The operand bytes by the fields (R76, R78) -/

theorem longDistance_bounds (q : BitVec 13) : -8192 ≤ longDistance q ∧ longDistance q ≤ -1 := by
  have := q.isLt
  unfold longDistance
  omega

/-- `trunc13(dist)` is the one code that R77 reads as `dist`. -/
theorem longDistance_ofInt {dist : Int} (hlo : -8192 ≤ dist) (hhi : dist ≤ -1) :
    longDistance (BitVec.ofInt 13 dist) = dist := by
  rw [longDistance, BitVec.toNat_ofInt]
  omega

theorem shortDistance_shortDistanceByte {dist : Int} (hlo : -256 ≤ dist) (hhi : dist ≤ -1) :
    shortDistance (shortDistanceByte dist) = dist := by
  rw [shortDistance, shortDistanceByte, trunc8, BitVec.toNat_ofInt]
  omega

/-- `trunc8(dist << 3)` drops the bits of 8192. -/
theorem trunc8_longDistance_mul (q : BitVec 13) : trunc8 (longDistance q * 8) = q.setWidth 8 <<< 3 := by
  refine BitVec.eq_of_toNat_eq ?_
  rw [trunc8, BitVec.toNat_ofInt, longDistance, BitVec.toNat_shiftLeft, BitVec.toNat_setWidth, Nat.shiftLeft_eq]
  omega

/-- `trunc8(dist >> 5)` drops the bits of 8192. -/
theorem trunc8_longDistance_div (q : BitVec 13) : trunc8 (longDistance q / 32) = q.extractLsb' 5 8 := by
  have hq := q.isLt
  refine BitVec.eq_of_toNat_eq ?_
  rw [trunc8, BitVec.toNat_ofInt, longDistance, BitVec.extractLsb'_toNat, Nat.shiftRight_eq_div_pow]
  omega

theorem trailerByte0_longDistance (q : BitVec 13) : trailerByte0 (longDistance q) = lowByte (longField 0 q) := by
  rw [trailerByte0, trunc8_longDistance_mul]
  refine BitVec.eq_of_getLsbD_eq fun i hi => ?_
  interval_cases i <;> simp [lowByte, longField]

theorem longByte1_longDistance (c : BitVec 3) (q : BitVec 13) :
    longByte1 (longDistance q) = highByte (longField c q) := by
  rw [longByte1, trunc8_longDistance_div]
  refine BitVec.eq_of_getLsbD_eq fun i hi => ?_
  interval_cases i <;> simp [highByte, longField]

theorem headerByte0_longDistance (len : Nat) (q : BitVec 13) :
    headerByte0 (longDistance q) len = lowByte (longField (BitVec.ofNat 3 (len - 2)) q) := by
  have hcode : BitVec.ofNat 3 (len - 2) = (BitVec.ofNat 8 (len - 2)).setWidth 3 :=
    (BitVec.setWidth_ofNat_of_le (by decide) _).symm
  rw [headerByte0, trunc8_longDistance_mul, hcode]
  generalize BitVec.ofNat 8 (len - 2) = code
  refine BitVec.eq_of_getLsbD_eq fun i hi => ?_
  interval_cases i <;> simp [lowByte, longField]

theorem headerLength_ofNat {len : Nat} (hlo : 2 ≤ len) (hhi : len ≤ 9) :
    headerLength (BitVec.ofNat 3 (len - 2)) = len := by
  rw [headerLength, BitVec.toNat_ofNat]
  omega

theorem shortLength_ofNat {len : Nat} (hlo : 2 ≤ len) (hhi : len ≤ 5) :
    shortLength (BitVec.ofNat 2 (len - 2)) = len := by
  rw [shortLength, BitVec.toNat_ofNat]
  omega

theorem trailerLength_trailerByte2 {len : Nat} (hlo : 1 ≤ len) (hhi : len ≤ 256) :
    trailerLength (trailerByte2 len) = len := by
  rw [trailerLength, trailerByte2, BitVec.toNat_ofNat]
  omega

/-- Settles O6: the bytes are those of the long-form field whose distance code R77 reads as `dist`. -/
theorem operandBytesInvert : Obligations.OperandBytesInvert := by
  refine ⟨fun dist len hlo hhi hlen hlen' => ?header, fun dist len hlo hhi hlen hlen' => ?trailer,
    fun dist hlo hhi => ?short⟩
  case header =>
    obtain ⟨q, rfl⟩ : ∃ q, dist = longDistance q := ⟨_, (longDistance_ofInt hlo hhi).symm⟩
    dsimp only
    rw [headerByte0_longDistance, longByte1_longDistance (BitVec.ofNat 3 (len - 2)), le16_lowByte_highByte,
      distanceCode_longField, lengthCode_longField]
    exact ⟨(Int.sub_add_cancel _ _).symm, rfl, headerLength_ofNat (by omega) hlen'⟩
  case trailer =>
    obtain ⟨q, rfl⟩ : ∃ q, dist = longDistance q := ⟨_, (longDistance_ofInt hlo hhi).symm⟩
    dsimp only
    rw [trailerByte0_longDistance, longByte1_longDistance 0, le16_lowByte_highByte, distanceCode_longField,
      lengthCode_longField]
    exact ⟨(Int.sub_add_cancel _ _).symm, rfl, rfl, trailerLength_trailerByte2 hlen hlen'⟩
  case short =>
    have hdist := shortDistance_shortDistanceByte hlo hhi
    exact ⟨by unfold shortDistance at hdist; omega, hdist⟩

/-! ### A token as the compressor emits it (R106, R107) -/

/-- A token's control bits, then its data bytes. -/
def Emitter.emitToken (e : Emitter) (i : Instr) : Emitter :=
  (dataBytes i).foldl Emitter.putByte ((controlBits i).foldl Emitter.putBit e)

variable (e : Emitter)

theorem Emitter.emitLit_eq (b : Byte) : e.emitLit b = e.emitToken (.lit b) := rfl

theorem Emitter.emitScopy_eq {len : Nat} (dist : Int) :
    e.emitScopy dist len = e.emitToken (.scopy (BitVec.ofNat 2 (len - 2)) (shortDistanceByte dist)) := by
  have hbit1 : (BitVec.ofNat 2 (len - 2)).getLsbD 1 = (len - 2).testBit 1 := by rw [BitVec.getLsbD_ofNat]; rfl
  have hbit0 : (BitVec.ofNat 2 (len - 2)).getLsbD 0 = (len - 2).testBit 0 := by rw [BitVec.getLsbD_ofNat]; rfl
  rw [Emitter.emitToken, controlBits, hbit1, hbit0]
  rfl

theorem Emitter.emitLcopyh_eq (len : Nat) {dist : Int} (hlo : -8192 ≤ dist) (hhi : dist ≤ -1) :
    e.emitLcopyh dist len = e.emitToken (.lcopyh (BitVec.ofNat 3 (len - 2)) (BitVec.ofInt 13 dist)) := by
  have hb0 := headerByte0_longDistance len (BitVec.ofInt 13 dist)
  have hb1 := longByte1_longDistance (BitVec.ofNat 3 (len - 2)) (BitVec.ofInt 13 dist)
  rw [longDistance_ofInt hlo hhi] at hb0 hb1
  rw [Emitter.emitLcopyh, hb0, hb1]
  rfl

theorem Emitter.emitLcopyt_eq (len : Nat) {dist : Int} (hlo : -8192 ≤ dist) (hhi : dist ≤ -1) :
    e.emitLcopyt dist len = e.emitToken (.lcopyt (BitVec.ofInt 13 dist) (trailerByte2 len)) := by
  have hb0 := trailerByte0_longDistance (BitVec.ofInt 13 dist)
  have hb1 := longByte1_longDistance 0 (BitVec.ofInt 13 dist)
  rw [longDistance_ofInt hlo hhi] at hb0 hb1
  rw [Emitter.emitLcopyt, hb0, hb1]
  rfl

/-! ### The form of a copy (R105) -/

variable {e} {d len : Nat}

theorem shortEligible_neg : shortEligible (-(d : Int)) len = true ↔ d ≤ 255 ∧ len ≤ 5 := by
  have hdist : -(prsShortMaxDist : Int) - 1 = -256 := rfl
  have hlen : prsShortMaxLen = 5 := rfl
  rw [shortEligible, hdist, hlen, Bool.and_eq_true, decide_eq_true_iff, decide_eq_true_iff]
  omega

theorem copyForm_short (h : d ≤ 255 ∧ len ≤ 5) :
    copyForm d len = .scopy (BitVec.ofNat 2 (len - 2)) (shortDistanceByte (-(d : Int))) :=
  if_pos (shortEligible_neg.2 h)

theorem copyForm_header (hshort : ¬ (d ≤ 255 ∧ len ≤ 5)) (h : len ≤ 9) :
    copyForm d len = .lcopyh (BitVec.ofNat 3 (len - 2)) (BitVec.ofInt 13 (-(d : Int))) :=
  (if_neg (mt shortEligible_neg.1 hshort)).trans (if_pos h)

theorem copyForm_trailer (hshort : ¬ (d ≤ 255 ∧ len ≤ 5)) (h : ¬ len ≤ 9) :
    copyForm d len = .lcopyt (BitVec.ofInt 13 (-(d : Int))) (trailerByte2 len) :=
  (if_neg (mt shortEligible_neg.1 hshort)).trans (if_neg h)

theorem emitCopy_short (h : d ≤ 255 ∧ len ≤ 5) (e : Emitter) :
    e.emitCopy (-(d : Int)) len = e.emitScopy (-(d : Int)) len :=
  if_pos (shortEligible_neg.2 h)

theorem emitCopy_header (hshort : ¬ (d ≤ 255 ∧ len ≤ 5)) (h : len ≤ 9) (e : Emitter) :
    e.emitCopy (-(d : Int)) len = e.emitLcopyh (-(d : Int)) len :=
  (if_neg (mt shortEligible_neg.1 hshort)).trans (if_pos h)

theorem emitCopy_trailer (hshort : ¬ (d ≤ 255 ∧ len ≤ 5)) (h : ¬ len ≤ 9) (e : Emitter) :
    e.emitCopy (-(d : Int)) len = e.emitLcopyt (-(d : Int)) len :=
  (if_neg (mt shortEligible_neg.1 hshort)).trans (if_neg h)

/-- The form carries the copy's distance and length (R77, R78). -/
theorem copyOperands_copyForm (h : copyDefined d len) : copyOperands (copyForm d len) = some (-(d : Int), len) := by
  have hlo : -8192 ≤ -(d : Int) := by omega
  have hhi : -(d : Int) ≤ -1 := by omega
  have hlong := longDistance_ofInt hlo hhi
  by_cases hshort : d ≤ 255 ∧ len ≤ 5
  · have hdist : shortDistance (shortDistanceByte (-(d : Int))) = -d := shortDistance_shortDistanceByte (by omega) hhi
    have hlen : shortLength (BitVec.ofNat 2 (len - 2)) = len := shortLength_ofNat (by omega) hshort.2
    rw [copyForm_short hshort]
    exact congrArg some (Prod.ext hdist hlen)
  · by_cases hheader : len ≤ 9
    · have hlen : headerLength (BitVec.ofNat 3 (len - 2)) = len := headerLength_ofNat (by omega) hheader
      rw [copyForm_header hshort hheader]
      exact congrArg some (Prod.ext hlong hlen)
    · have hlen : trailerLength (trailerByte2 len) = len := trailerLength_trailerByte2 (by omega) (by omega)
      rw [copyForm_trailer hshort hheader]
      exact congrArg some (Prod.ext hlong hlen)

/-- The form keeps clear of the reserved field values, but for R79's `d = 8192` in the trailer form (log 17). -/
theorem copyForm_wellFormed (h : copyDefined d len) (hreserved : d ≠ 8192 ∨ len ≤ 9) :
    (copyForm d len).WellFormed := by
  by_cases hshort : d ≤ 255 ∧ len ≤ 5
  · rw [copyForm_short hshort]
    rfl
  · by_cases hheader : len ≤ 9
    · have hc : BitVec.ofNat 3 (len - 2) ≠ 0 := fun hc => by
        have hlen := headerLength_ofNat (by omega) hheader
        rw [hc] at hlen
        change 2 = len at hlen
        omega
      rw [copyForm_header hshort hheader]
      exact if_neg hc
    · have hq : BitVec.ofInt 13 (-(d : Int)) ≠ 0 := fun hq => by
        have hdist : longDistance (BitVec.ofInt 13 (-(d : Int))) = -d := longDistance_ofInt (by omega) (by omega)
        rw [hq] at hdist
        change (-8192 : Int) = -d at hdist
        omega
      rw [copyForm_trailer hshort hheader]
      exact if_neg hq

theorem emitCopy_eq (h : copyDefined d len) (e : Emitter) :
    e.emitCopy (-(d : Int)) len = e.emitToken (copyForm d len) := by
  by_cases hshort : d ≤ 255 ∧ len ≤ 5
  · rw [emitCopy_short hshort, copyForm_short hshort, Emitter.emitScopy_eq]
  · by_cases hheader : len ≤ 9
    · rw [emitCopy_header hshort hheader, copyForm_header hshort hheader, Emitter.emitLcopyh_eq] <;> omega
    · rw [emitCopy_trailer hshort hheader, copyForm_trailer hshort hheader, Emitter.emitLcopyt_eq] <;> omega

/-- Settles O28: each form by its threshold, with the lemmas about the form. -/
theorem emittedCopyIsEncodedForm : Obligations.EmittedCopyIsEncodedForm := by
  intro d len h
  have hdefined : copyDefined d len := by
    unfold copyDefined
    omega
  refine ⟨copyForm d len, copyPseudoToken_some.2 ⟨hdefined, rfl⟩, copyOperands_copyForm hdefined,
    copyForm_wellFormed hdefined, emitCopy_eq hdefined, ?_⟩
  split_ifs with hshort hheader
  · exact ⟨⟨_, _, copyForm_short hshort⟩, emitCopy_short hshort⟩
  · exact ⟨⟨_, _, copyForm_header hshort hheader⟩, emitCopy_header hshort hheader⟩
  · exact ⟨⟨_, _, copyForm_trailer hshort hheader⟩, emitCopy_trailer hshort hheader⟩

end Sys2Proof.Machine
end

section
/-! SUPPORT. The command port with nothing issued, or with a code that is not assigned (30_encoding.md R85;
60_exceptions.md R213). -/

namespace Sys2Proof.Machine

variable {s : State}

theorem decodeOperands_unassigned {op : Byte} (h : op ∉ [0x01, 0x02, 0x03, 0x10, 0x11, 0x12, 0x13]) (var : Byte)
    (slot : Half) (ws : List Word) : decodeOperands op var slot ws = .error (.unassignedOp op) := by
  simp only [List.mem_cons, List.not_mem_nil, or_false, not_or] at h
  obtain ⟨h1, h2, h3, h10, h11, h12, h13⟩ := h
  unfold decodeOperands
  rw [if_neg h1, if_neg h2, if_neg h3, if_neg h10, if_neg h11, if_neg h12, if_neg h13]

theorem fetchCommand_empty (h : s.port = []) : fetchCommand s = .idle := by
  rw [fetchCommand, h]
  rfl

theorem fetchCommand_unassigned {cw : Word} {ws : List Word} (hport : s.port = cw :: ws)
    (h : cwOp cw ∉ [0x01, 0x02, 0x03, 0x10, 0x11, 0x12, 0x13]) : fetchCommand s = .unassigned := by
  rw [fetchCommand, hport, decodeCommand, decodeOperands_unassigned h]

/-- Settles O10: what the fetch finds in the port, the step answers. -/
theorem portIdleOrUnassigned : Obligations.PortIdleOrUnassigned := by
  constructor
  · intro s hjob hport
    rw [step_of_idle hjob, commandStepWith, fetchCommand_empty hport]
  · intro s cw ws hjob hport hop
    rw [step_of_idle hjob, commandStepWith, fetchCommand_unassigned hport hop]

end Sys2Proof.Machine
end

section
/-! SUPPORT. A copy token in the walk (30_encoding.md R77; 41_prs_decompressor.md R130, R132). -/

namespace Sys2Proof.Machine

/-- A copy that overlaps its own output repeats the `d` bytes before it (R132). -/
theorem Memory.copyBytes_read_inside {m : Memory} (h : m.wf) (source : Nat) {d n k : Nat} (hd : 1 ≤ d) (hk : k < n) :
    (m.copyBytes source (source + d) n).read (source + d + k) = m.read (source + k % d) := by
  induction n generalizing m source k with
  | zero => omega
  | succ n ih =>
    rw [Memory.copyBytes, Nat.add_right_comm source d 1]
    cases k with
    | zero =>
      rw [Memory.copyBytes_read_outside _ _ _ _ (by omega), Nat.add_zero, Memory.read_write_self h, Nat.zero_mod,
        Nat.add_zero]
    | succ k =>
      have hmod := Nat.mod_lt k hd
      have hnext := ih (Memory.write_wf h (source + d) (m.read source)) (source + 1) (k := k) (by omega)
      rw [show source + d + (k + 1) = source + 1 + d + k by omega, hnext, Memory.read_write h]
      rw [← Nat.mod_add_mod k d 1]
      by_cases hwrap : k % d + 1 = d
      · rw [if_pos (by omega), hwrap, Nat.mod_self, Nat.add_zero]
      · rw [if_neg (by omega), Nat.mod_eq_of_lt (show k % d + 1 < d by omega), Nat.add_assoc, Nat.add_comm 1]

/-- The copy tokens are those with operands, and each runs `copy` of R130 on them. -/
theorem exec_copy {i : Instr} {dist : Int} {len : Nat} (h : copyOperands i = some (dist, len)) (s : State) :
    exec i s = copyToken dist len s := by
  cases i with
  | lcopyt | lcopyh | scopy => cases h; rfl
  | endStream | lit | prsCompress | prsDecompress | prsSize | cipherCreateKeys | cipherCrypt | cipherNextWord
  | cipherRelease => cases h

/-- Every distance is backward (R77). -/
theorem copyOperands_backward {i : Instr} {dist : Int} {len : Nat} (h : copyOperands i = some (dist, len)) :
    dist ≤ -1 := by
  cases i with
  | lcopyt q b2 => cases h; exact (longDistance_bounds q).2
  | lcopyh c q => cases h; exact (longDistance_bounds q).2
  | scopy l d8 =>
    have hd8 := d8.isLt
    cases h
    omega
  | endStream | lit | prsCompress | prsDecompress | prsSize | cipherCreateKeys | cipherCrypt | cipherNextWord
  | cipherRelease => cases h

/-- A copy in range and within the capacity (R130, R131, R133). -/
theorem copyToken_room {s : State} {w : Walk} {dist : Int} {len : Nat} (hj : s.job = some (.decode w))
    (hv : w.valid s.cfg = true) (hstart : 0 ≤ (w.dc.dstPos : Int) + dist) (hroom : w.hasRoom len = true) :
    copyToken dist len s = .next (s.copyOutput w dist len) :=
  copyToken_next.2 ⟨w, hj, hv, .inr (.inl ⟨hstart, hroom, rfl⟩)⟩

/-- Settles O13: where a destination is written the output is the overlapping copy of its own last bytes. -/
theorem copyTokensRepeatOutput : Obligations.CopyTokensRepeatOutput := by
  intro s w i dist len hi hj hv hmem hstart hroom
  have hback := copyOperands_backward hi
  obtain ⟨m, hout, hm⟩ := s.copyOutput_eq w dist len
  refine ⟨(s.withMem m).withJob (some (.decode (w.produced len))), ?_, rfl, fun d hd => ?_, fun hd => ?_, rfl, rfl, rfl,
    rfl, rfl, rfl⟩
  · rw [exec_copy hi, copyToken_room hj hv hstart (Walk.hasRoom_iff.2 hroom), hout]
  · have hsource : d.base + ((w.dc.dstPos : Int) + dist).toNat = d.base + (w.dc.dstPos - (-dist).toNat) := by omega
    have htarget : d.base + w.dc.dstPos = d.base + (w.dc.dstPos - (-dist).toNat) + (-dist).toNat := by omega
    rw [Option.mem_def.1 hd] at hm
    dsimp only at hm
    rw [State.withJob_mem, State.withMem_mem, hm, hsource]
    constructor
    · intro k hk
      rw [htarget]
      exact Memory.copyBytes_read_inside hmem _ (by omega) hk
    · intro a ha
      exact Memory.copyBytes_read_outside _ _ _ _ ha
  · rw [hd] at hm
    exact hm

end Sys2Proof.Machine
end

section
/-! SUPPORT. The payload of a stream as a function of the stream (41_prs_decompressor.md R122-R134): what one token appends,
and how long the output grows. -/

namespace Sys2Proof.Machine

variable {src : Nat → Option Byte} {c : DecodeCursor} {i : Instr} {out out' final : List Byte} {k n : Nat}

/-! ### One token -/

theorem appendCopy_length (d n : Nat) (out : List Byte) : (appendCopy d n out).length = out.length + n := by
  induction n generalizing out with
  | zero => rfl
  | succ n ih =>
    rw [appendCopy, ih, List.length_append, List.length_singleton]
    omega

theorem appendReference_eq_some {dist : Int} {len : Nat} :
    appendReference dist len out = some out' ↔
      0 ≤ (out.length : Int) + dist ∧ out' = appendCopy (-dist).toNat len out := by
  unfold appendReference
  split_ifs with h
  · simp
    omega
  · simp [eq_comm (b := out')]
    omega

/-- What a token that is not `END` can append (R123-R126): its literal byte, or a copy of the output. -/
theorem appendToken_cases (hne : i ≠ .endStream) (h : appendToken i out = some out') :
    (∃ b, i = .lit b ∧ out' = out ++ [b]) ∨
    (∃ dist len, copyOperands i = some (dist, len) ∧ 0 ≤ (out.length : Int) + dist ∧
      out' = appendCopy (-dist).toNat len out) := by
  cases i with
  | endStream => exact absurd rfl hne
  | lit b =>
    cases h
    exact .inl ⟨b, rfl, rfl⟩
  | lcopyt | lcopyh | scopy => exact .inr ⟨_, _, rfl, appendReference_eq_some.1 h⟩
  | prsCompress | prsDecompress | prsSize | cipherCreateKeys | cipherCrypt | cipherNextWord | cipherRelease => cases h

/-- The longest copy is the trailer form's (R77). -/
theorem copyOperands_length {dist : Int} {len : Nat} (h : copyOperands i = some (dist, len)) : len ≤ 256 := by
  cases i with
  | lcopyt q b2 =>
    have hb2 := b2.isLt
    cases h
    exact hb2
  | lcopyh c q =>
    have hc := c.isLt
    cases h
    omega
  | scopy l d8 =>
    have hl := l.isLt
    cases h
    omega
  | endStream | lit | prsCompress | prsDecompress | prsSize | cipherCreateKeys | cipherCrypt | cipherNextWord
  | cipherRelease => cases h

theorem appendToken_length (hne : i ≠ .endStream) (h : appendToken i out = some out') :
    out.length ≤ out'.length ∧ out'.length ≤ out.length + 256 := by
  obtain ⟨b, -, rfl⟩ | ⟨dist, len, hi, -, rfl⟩ := appendToken_cases hne h
  · simp
  · have hlen := copyOperands_length hi
    rw [appendCopy_length]
    omega

/-! ### The loop -/

/-- The loop of R122, unrolled once: at `END` the output is the payload, else the token's output goes on. -/
theorem payloadLoop_succ :
    payloadLoop src (k + 1) c out = some final ↔ ∃ i c', decodeToken src c = .ok (i, c') ∧
      ((i = .endStream ∧ final = out) ∨
        (i ≠ .endStream ∧ ∃ out', appendToken i out = some out' ∧ payloadLoop src k c' out' = some final)) := by
  rw [payloadLoop]
  cases decodeToken src c with
  | error e => simp
  | ok p =>
    obtain ⟨i, c'⟩ := p
    by_cases hi : i = .endStream
    · simp [hi, eq_comm (b := final)]
    · cases h : appendToken i out <;> simp [hi, h]

theorem payloadLoop_length (h : payloadLoop src k c out = some final) : out.length ≤ final.length := by
  induction k generalizing c out with
  | zero => cases h
  | succ k ih =>
    obtain ⟨i, c', -, ⟨-, rfl⟩ | ⟨hne, out', happ, h⟩⟩ := payloadLoop_succ.1 h
    · exact le_rfl
    · exact (appendToken_length hne happ).1.trans (ih h)

theorem producedLoop_of_payloadLoop (h : payloadLoop src k c out = some final) :
    final = producedLoop src k c out := by
  induction k generalizing c out with
  | zero => cases h
  | succ k ih =>
    obtain ⟨i, c', hd, ⟨rfl, rfl⟩ | ⟨hne, out', happ, h⟩⟩ := payloadLoop_succ.1 h
    · simp [producedLoop, hd]
    · simp [producedLoop, hd, hne, happ, ih h]

/-- Each token reads a byte and appends at most 256 (R134). -/
theorem producedLoop_length (hn : ∀ k, n ≤ k → src k = none) (hc : c.srcPos ≤ n) :
    (producedLoop src k c out).length + 256 * c.srcPos ≤ out.length + 256 * n := by
  induction k generalizing c out with
  | zero =>
    rw [producedLoop]
    omega
  | succ k ih =>
    rw [producedLoop]
    cases hd : decodeToken src c with
    | error e =>
      dsimp only
      omega
    | ok p =>
      obtain ⟨i, c'⟩ := p
      obtain ⟨hlt, hle⟩ := decodeToken_srcPos hn hd
      dsimp only
      split_ifs with hi
      · omega
      · cases happ : appendToken i out with
        | none =>
          dsimp only
          omega
        | some out' =>
          obtain ⟨-, hout'⟩ := appendToken_length hi happ
          have hrest := ih (c := c') (out := out') hle
          dsimp only
          omega

theorem byteSource_none (bytes : List Byte) (k : Nat) (h : bytes.length ≤ k) : byteSource bytes k = none :=
  List.getElem?_eq_none h

/-- Settles O22: the bound is the loop's, and a payload is what the loop produces. -/
theorem payloadLengthBound : Obligations.PayloadLengthBound := by
  intro stream
  have hbound : (produced stream).length ≤ 256 * stream.length := by
    have hloop := producedLoop_length (k := stream.length + 1) (c := DecodeCursor.start) (out := [])
      (byteSource_none stream) (Nat.zero_le _)
    rw [List.length_nil, Nat.zero_add] at hloop
    exact (Nat.le_add_right _ _).trans hloop
  refine ⟨hbound, fun out h => ?_⟩
  have hout : out = produced stream := producedLoop_of_payloadLoop h
  exact ⟨hout, hout ▸ hbound⟩

end Sys2Proof.Machine
end

section
/-! SUPPORT. Reading a token does not depend on the output position (41_prs_decompressor.md R120, R121): the decoder
gives exactly the tokens whose bits and bytes it reads. -/

namespace Sys2Proof

variable {src : Nat → Option Byte} {c c' : DecodeCursor} {i : Instr}

theorem lowByte_le16 (b0 b1 : Byte) : lowByte (le16 b0 b1) = b0 := by
  refine BitVec.eq_of_getLsbD_eq fun i hi => ?_
  have hlow : i < 16 := by omega
  simp [lowByte, le16, hi, hlow]

theorem highByte_le16 (b0 b1 : Byte) : highByte (le16 b0 b1) = b1 := by
  refine BitVec.eq_of_getLsbD_eq fun i hi => ?_
  have hlow : 8 + i < 16 ∧ ¬ 8 + i < 8 := by omega
  simp [highByte, le16, hi, hlow]

theorem reads_of_decodeLong (h : decodeLong src c = .ok (i, c')) :
    controlBits i = [false, true] ∧ ReadsBytes src (dataBytes i) c c' := by
  obtain ⟨b0, b1, c1, c2, h0, h1, ⟨hv, rfl, rfl⟩ | ⟨-, hk, b2, h2, rfl⟩ | ⟨-, -, rfl, rfl⟩⟩ := decodeLong_cases h
  · obtain rfl : b0 = 0 := by rw [← lowByte_le16 b0 b1, hv]; rfl
    obtain rfl : b1 = 0 := by rw [← highByte_le16 0 b1, hv]; rfl
    exact ⟨rfl, c1, h0, _, h1, rfl⟩
  · refine ⟨rfl, c1, ?_, c2, ?_, c', h2, rfl⟩
    · rw [← hk, longField_fields, lowByte_le16, h0]
    · rw [← hk, longField_fields, highByte_le16, h1]
  · refine ⟨rfl, c1, ?_, _, ?_, rfl⟩
    · rw [longField_fields, lowByte_le16, h0]
    · rw [longField_fields, highByte_le16, h1]

/-- A token that the decoder gives has the control bits and data bytes that were read. -/
theorem reads_of_decodeToken (h : decodeToken src c = .ok (i, c')) :
    ∃ c1, ReadsBits src (controlBits i) c c1 ∧ ReadsBytes src (dataBytes i) c1 c' := by
  obtain ⟨b, c1, h0, h1, rfl⟩ | ⟨c1, c2, h0, h1, h⟩ | ⟨c1, c2, h0, h1, h⟩ := decodeToken_cases h
  · exact ⟨c1, ⟨c1, h0, rfl⟩, c', h1, rfl⟩
  · obtain ⟨hbits, hbytes⟩ := reads_of_decodeLong h
    rw [hbits]
    exact ⟨c2, ⟨c1, h0, c2, h1, rfl⟩, hbytes⟩
  · obtain ⟨lh, ll, d8, c3, c4, h2, h3, h4, rfl⟩ := decodeShort_cases h
    obtain ⟨hlh, hll⟩ := lengthBits_bits lh ll
    rw [controlBits, hlh, hll]
    exact ⟨c4, ⟨c1, h0, c2, h1, c3, h2, c4, h3, rfl⟩, c', h4, rfl⟩

theorem readByte_withDstPos {v : Byte} (h : readByte src c = .ok (v, c')) (p : Nat) :
    readByte src { c with dstPos := p } = .ok (v, { c' with dstPos := p }) := by
  obtain ⟨hv, rfl⟩ := readByte_ok.1 h
  exact readByte_ok.2 ⟨hv, rfl⟩

theorem readBit_withDstPos {b : Bool} (h : readBit src c = .ok (b, c')) (p : Nat) :
    readBit src { c with dstPos := p } = .ok (b, { c' with dstPos := p }) := by
  obtain ⟨hleft, ht⟩ | ⟨hleft, v, c1, hr, ht⟩ := readBit_ok.1 h
  · cases ht
    exact readBit_ok.2 (.inl ⟨hleft, rfl⟩)
  · cases ht
    exact readBit_ok.2 (.inr ⟨hleft, v, _, readByte_withDstPos hr p, rfl⟩)

theorem ReadsBits.withDstPos {bits : List Bool} (h : ReadsBits src bits c c') (p : Nat) :
    ReadsBits src bits { c with dstPos := p } { c' with dstPos := p } := by
  induction bits generalizing c with
  | nil =>
    cases h
    rfl
  | cons b bs ih =>
    obtain ⟨c1, hb, hbs⟩ := h
    exact ⟨_, readBit_withDstPos hb p, ih hbs⟩

theorem ReadsBytes.withDstPos {bytes : List Byte} (h : ReadsBytes src bytes c c') (p : Nat) :
    ReadsBytes src bytes { c with dstPos := p } { c' with dstPos := p } := by
  induction bytes generalizing c with
  | nil =>
    cases h
    rfl
  | cons v vs ih =>
    obtain ⟨c1, hv, hvs⟩ := h
    exact ⟨_, readByte_withDstPos hv p, ih hvs⟩

theorem decodeToken_withDstPos (h : decodeToken src c = .ok (i, c')) (p : Nat) :
    decodeToken src { c with dstPos := p } = .ok (i, { c' with dstPos := p }) := by
  obtain ⟨c1, hbits, hbytes⟩ := reads_of_decodeToken h
  exact decodeToken_of_reads (isToken_of_decodeToken h) (wellFormed_of_decodeToken h) (hbits.withDstPos p)
    (hbytes.withDstPos p)

end Sys2Proof
end

section
/-! SUPPORT. The decode walk writes the payload (41_prs_decompressor.md R122-R135): on a stream that has one, of at most
the capacity, the walk ends well with the payload as its output. -/

namespace Sys2Proof.Machine

variable {m m' m0 : Memory} {base : Nat} {dst : Option Buffer} {out out' final : List Byte} {s : State} {w : Walk}

/-! ### Output in memory -/

/-- `HostMem`, in canonical form, has the bytes `out` from `base` on. -/
structure Memory.Holds (m : Memory) (base : Nat) (out : List Byte) : Prop where
  wf : m.wf
  bytes : m.readBytes base out.length = out

theorem Memory.Holds.read (h : m.Holds base out) {k : Nat} (hk : k < out.length) :
    m.read (base + k) = out[k] := by
  have hk' : k < (m.readBytes base out.length).length := by rwa [Memory.readBytes_length]
  rw [← Memory.readBytes_getElem m base out.length k hk']
  exact List.getElem_of_eq h.bytes hk'

/-- One more byte of output (R123, R132). -/
theorem Memory.Holds.write (h : m.Holds base out) (v : Byte) :
    (m.write (base + out.length) v).Holds base (out ++ [v]) := by
  refine ⟨Memory.write_wf h.wf _ _, List.ext_getElem (by simp) fun k hk hk' => ?_⟩
  rw [Memory.readBytes_getElem, Memory.read_write h.wf, List.getElem_append]
  rw [List.length_append, List.length_singleton] at hk'
  by_cases hlt : k < out.length
  · rw [dif_pos hlt, if_neg (by omega), h.read hlt]
  · rw [dif_neg hlt, if_pos (by omega)]
    simp

/-- The byte-by-byte copy in memory is the one on lists (R132). -/
theorem Memory.Holds.copyBytes (h : m.Holds base out) {d : Nat} (hd : 1 ≤ d) (hle : d ≤ out.length) (len : Nat) :
    (m.copyBytes (base + (out.length - d)) (base + out.length) len).Holds base (appendCopy d len out) := by
  induction len generalizing m out with
  | zero => exact h
  | succ len ih =>
    have hlt : out.length - d < out.length := by omega
    have hnext := ih (h.write (m.read (base + (out.length - d)))) (by rw [List.length_append]; omega)
    rw [List.length_append, List.length_singleton, Nat.sub_add_comm hle] at hnext
    rw [Memory.copyBytes, appendCopy, List.getD_eq_getElem _ _ hlt, ← h.read hlt, Nat.add_assoc base,
      Nat.add_assoc base]
    exact hnext

/-- `m'` is `m` with the output `out` in the destination, where there is one (R122, R135). -/
structure Delivers (dst : Option Buffer) (out : List Byte) (m m' : Memory) : Prop where
  holds : ∀ d ∈ dst, m'.Holds d.base out
  frame : ∀ d ∈ dst, sameOutside { base := d.base, len := out.length } m m'
  probe : dst = none → m' = m

theorem Delivers.nil (h : ∀ d ∈ dst, m.wf) : Delivers dst [] m m :=
  ⟨fun d hd => ⟨h d hd, rfl⟩, fun _ _ _ _ => rfl, fun _ => rfl⟩

/-- More output, all of it after the output so far. -/
theorem Delivers.extend (h : Delivers dst out m0 m) (hlen : out.length ≤ out'.length)
    (holds : ∀ d ∈ dst, m'.Holds d.base out')
    (frame : ∀ d ∈ dst, ∀ a, ¬ (d.base + out.length ≤ a ∧ a < d.base + out'.length) → m'.read a = m.read a)
    (probe : dst = none → m' = m) : Delivers dst out' m0 m' := by
  refine ⟨holds, fun d hd a ha => ?_, fun hd => (probe hd).trans (h.probe hd)⟩
  simp only [Buffer.covers, Buffer.stop] at ha
  rw [frame d hd a (by omega)]
  refine h.frame d hd a ?_
  simp only [Buffer.covers, Buffer.stop]
  omega

/-- Output within a destination that shares no byte with the source leaves the stream as it was (R58). -/
theorem Delivers.source (h : Delivers w.dst out m0 m) (hsep : ∀ d ∈ w.dst, w.src.overlaps d = false)
    (hroom : ∀ d ∈ w.dst, out.length ≤ d.len) : w.source m = w.source m0 := by
  funext k
  unfold Walk.source
  split_ifs with hk
  · cases hdst : w.dst with
    | none => rw [h.probe hdst]
    | some d =>
      have hlen := hroom d hdst
      rw [h.frame d hdst _ fun hcovers => ?_]
      have hsrc : w.src.covers (w.src.base + k) := ⟨Nat.le_add_right _ _, Nat.add_lt_add_left hk _⟩
      have hd : d.covers (w.src.base + k) := ⟨hcovers.1, hcovers.2.trans_le (Nat.add_le_add_left hlen _)⟩
      have hov := Buffer.overlaps_of_covers hsrc hd
      rw [hsep d hdst] at hov
      cases hov
  · rfl

/-! ### One token -/

/-- The walk after its output has grown to `out`. -/
def Walk.withOutput (w : Walk) (out : List Byte) : Walk := { w with dc := { w.dc with dstPos := out.length } }

theorem execLit_delivers (hj : s.job = some (.decode w)) (hv : w.valid s.cfg = true) (hpos : w.dc.dstPos = out.length)
    (b : Byte) (hroom : ∀ d ∈ w.dst, (out ++ [b]).length ≤ d.len) (hdel : Delivers w.dst out m0 s.mem) :
    ∃ m, execLit b s = .next ((s.withMem m).withJob (some (.decode (w.withOutput (out ++ [b]))))) ∧
      Delivers w.dst (out ++ [b]) m0 m := by
  have hroom' : w.hasRoom 1 = true := Walk.hasRoom_iff.2 fun d hd => by
    have := hroom d hd
    rw [List.length_append, List.length_singleton] at this
    rwa [hpos]
  have hwalk : w.produced 1 = w.withOutput (out ++ [b]) := by
    rw [Walk.produced, Walk.withOutput, hpos, List.length_append, List.length_singleton]
  obtain ⟨m, hput, hm⟩ := s.putOutput_eq w b
  refine ⟨m, ?_, hdel.extend (by simp) (fun d hd => ?_) (fun d hd a ha => ?_) fun hd => ?_⟩
  · rw [← hwalk, ← hput]
    exact execLit_next.2 ⟨w, hj, hv, .inl ⟨hroom', rfl⟩⟩
  · rw [Option.mem_def.1 hd] at hm
    rw [hm, hpos]
    exact (hdel.holds d hd).write b
  · rw [Option.mem_def.1 hd] at hm
    rw [List.length_append, List.length_singleton] at ha
    rw [hm, Memory.read_write_ne _ _ (by omega)]
  · rw [hd] at hm
    exact hm

theorem copyToken_delivers (hj : s.job = some (.decode w)) (hv : w.valid s.cfg = true)
    (hpos : w.dc.dstPos = out.length) {dist : Int} {len : Nat} (hback : dist ≤ -1)
    (hstart : 0 ≤ (out.length : Int) + dist) (hroom : ∀ d ∈ w.dst, out.length + len ≤ d.len)
    (hdel : Delivers w.dst out m0 s.mem) :
    ∃ m, copyToken dist len s =
        .next ((s.withMem m).withJob (some (.decode (w.withOutput (appendCopy (-dist).toNat len out))))) ∧
      Delivers w.dst (appendCopy (-dist).toNat len out) m0 m := by
  have hlen := appendCopy_length (-dist).toNat len out
  have hwalk : w.produced len = w.withOutput (appendCopy (-dist).toNat len out) := by
    rw [Walk.produced, Walk.withOutput, hpos, hlen]
  obtain ⟨m, hcopy, hm⟩ := s.copyOutput_eq w dist len
  refine ⟨m, ?_, hdel.extend (by omega) (fun d hd => ?_) (fun d hd a ha => ?_) fun hd => ?_⟩
  · rw [← hwalk, ← hcopy]
    exact copyToken_room hj hv (hpos ▸ hstart) (Walk.hasRoom_iff.2 (hpos ▸ hroom))
  · have hsource : ((out.length : Int) + dist).toNat = out.length - (-dist).toNat := by omega
    rw [Option.mem_def.1 hd] at hm
    rw [hm, hpos, hsource]
    exact (hdel.holds d hd).copyBytes (by omega) (by omega) len
  · rw [Option.mem_def.1 hd] at hm
    rw [hlen] at ha
    rw [hm]
    exact Memory.copyBytes_read_outside _ _ _ _ (by omega)
  · rw [hd] at hm
    exact hm

/-- A token that is not `END` does to the destination what it does to the output (R123-R126). -/
theorem runToken_delivers (hj : s.job = some (.decode w)) (hv : w.valid s.cfg = true)
    (hpos : w.dc.dstPos = out.length) {i : Instr} (hne : i ≠ .endStream) (htoken : i.isToken = true)
    (happ : appendToken i out = some out') (hroom : ∀ d ∈ w.dst, out'.length ≤ d.len)
    (hdel : Delivers w.dst out m0 s.mem) :
    ∃ m, runToken i s = .next ((s.withMem m).withJob (some (.decode (w.withOutput out')))) ∧
      Delivers w.dst out' m0 m := by
  obtain ⟨b, rfl, rfl⟩ | ⟨dist, len, hi, hstart, rfl⟩ := appendToken_cases hne happ
  · exact execLit_delivers hj hv hpos b hroom hdel
  · rw [← exec_of_isToken htoken, exec_copy hi]
    rw [appendCopy_length] at hroom
    exact copyToken_delivers hj hv hpos (copyOperands_backward hi) hstart hroom hdel

/-! ### The walk -/

theorem walkStep_of_decodeToken {i : Instr} {dc : DecodeCursor} {t : State} (hj : s.job = some (.decode w))
    (hv : w.valid s.cfg = true) (hd : decodeToken (w.source s.mem) w.dc = .ok (i, dc))
    (ht : runToken i (s.withJob (some (.decode { w with dc := dc }))) = .next t) : walkStep s = .next t :=
  walkStepWith_next.2 ⟨w, hj, hv, .inr ⟨i, dc, hd, ht⟩⟩

/-- The walk, from an output and a cursor on, against the loop on lists from the same output and cursor. -/
theorem runWalk_delivers {fuel : Nat} {c : DecodeCursor} (hj : s.job = some (.decode w)) (hv : w.valid s.cfg = true)
    (hc : w.dc = { c with dstPos := out.length }) (hsep : ∀ d ∈ w.dst, w.src.overlaps d = false)
    (hroom : ∀ d ∈ w.dst, final.length ≤ d.len) (hdel : Delivers w.dst out m0 s.mem)
    (hp : payloadLoop (w.source m0) fuel c out = some final) :
    ∃ m, runWalk fuel s = .next ((s.withMem m).prsOk final.length) ∧ Delivers w.dst final m0 m := by
  induction fuel generalizing s w c out with
  | zero => cases hp
  | succ fuel ih =>
    have hout := payloadLoop_length hp
    have hsource := hdel.source hsep fun d hd => hout.trans (hroom d hd)
    obtain ⟨i, c', hd, hcase⟩ := payloadLoop_succ.1 hp
    have hdecode : decodeToken (w.source s.mem) w.dc = .ok (i, { c' with dstPos := out.length }) := by
      rw [hsource, hc]
      exact decodeToken_withDstPos hd _
    obtain ⟨rfl, rfl⟩ | ⟨hne, out', happ, hrest⟩ := hcase
    · have hend := walkStep_of_decodeToken hj hv hdecode (execEndStream_next.2 ⟨_, rfl, hv, rfl⟩)
      exact ⟨s.mem, runWalk_next.2 ⟨_, hend, .inl ⟨rfl, rfl⟩⟩, hdel⟩
    · have hout' := payloadLoop_length hrest
      obtain ⟨m, ht, hdel'⟩ := runToken_delivers
        (s := s.withJob (some (.decode { w with dc := { c' with dstPos := out.length } }))) rfl hv rfl hne
        (isToken_of_decodeToken hd) happ (fun d hd => hout'.trans (hroom d hd)) hdel
      have hround := walkStep_of_decodeToken hj hv hdecode ht
      obtain ⟨m', hrun, hdel''⟩ := ih (s := (s.withMem m).withJob _)
        (w := Walk.withOutput { w with dc := { c' with dstPos := out.length } } out') (c := c')
        rfl hv rfl hsep hroom hdel' hrest
      exact ⟨m', runWalk_next.2 ⟨_, hround, .inr ⟨by simp, hrun⟩⟩, hdel''⟩

/-- The stream as the decoder reads it is the list of the source's bytes (R121). -/
theorem Walk.source_eq (m : Memory) (w : Walk) : w.source m = byteSource (w.src.bytes m) := by
  funext k
  unfold Walk.source byteSource Buffer.bytes
  split_ifs with hk
  · rw [List.getElem?_eq_getElem (by rwa [Memory.readBytes_length]), Memory.readBytes_getElem]
  · rw [List.getElem?_eq_none (by rw [Memory.readBytes_length]; omega)]

/-- The body of `PRS.DECOMPRESS` and `PRS.SIZE` on a stream with a payload that fits (R140, R141). -/
theorem runDecode_delivers {src : Buffer} (hv : (Walk.start src dst).valid s.cfg = true) (hmem : ∀ d ∈ dst, s.mem.wf)
    (hsep : ∀ d ∈ dst, src.overlaps d = false) (hp : payload (src.bytes s.mem) = some final)
    (hroom : ∀ d ∈ dst, final.length ≤ d.len) :
    ∃ m, runDecode src dst s = .next ((s.withMem m).prsOk final.length) ∧ Delivers dst final s.mem m := by
  refine runWalk_delivers (s := s.withJob (some (.decode (Walk.start src dst)))) (w := Walk.start src dst)
    (c := DecodeCursor.start) (out := []) rfl hv rfl hsep hroom (Delivers.nil hmem) ?_
  rw [Walk.source_eq]
  unfold payload at hp
  rwa [Buffer.bytes, Memory.readBytes_length] at hp

end Sys2Proof.Machine
end

section
/-! SUPPORT. The compressor's stream read back (40_prs_compressor.md R106-R108; 41_prs_decompressor.md R120, R121): wherever
the decoder has read all that an emitter has put out, it reads the next token put out. -/

namespace Sys2Proof.Machine

variable {e : Emitter} {stream : List Byte} {c : DecodeCursor} {i : Instr}

/-! ### What the final stream keeps of an emitter -/

/-- The stream has the emitter's bytes, and for the open control byte one whose low bits are the control bits put so far
(R72, R106). -/
structure Emitter.CarriedBy (e : Emitter) (stream : List Byte) : Prop where
  bytes : ∀ k, k < e.cc.dstPos → k ≠ e.cc.cbPos → stream[k]? = e.out[k]?
  control : ∃ v, stream[e.cc.cbPos]? = some v ∧
    ∀ k, k < e.cc.cbBits → v.getLsbD k = e.cc.cbVal.getLsbD (8 - e.cc.cbBits + k)

theorem Emitter.insertBit_getLsbD (e : Emitter) (b : Bool) {k : Nat} (hk : k < 8) :
    (e.insertBit b).cc.cbVal.getLsbD k = if k = 7 then b else e.cc.cbVal.getLsbD (k + 1) := by
  simp only [Emitter.insertBit]
  interval_cases k <;> simp

theorem Emitter.CarriedBy.of_insertBit {b : Bool} (hbits : e.cc.cbBits < 8) (h : (e.insertBit b).CarriedBy stream) :
    e.CarriedBy stream := by
  obtain ⟨v, hv, hcontrol⟩ := h.control
  refine ⟨h.bytes, v, hv, fun k hk => ?_⟩
  have hbit := hcontrol k (Nat.lt_succ_of_lt hk)
  change v.getLsbD k = (e.insertBit b).cc.cbVal.getLsbD (8 - (e.cc.cbBits + 1) + k) at hbit
  rw [Emitter.insertBit_getLsbD _ _ (by omega), if_neg (by omega)] at hbit
  rw [hbit]
  congr 1
  omega

theorem Emitter.CarriedBy.of_openControl (h : e.ok) (hfull : e.cc.cbBits = 8) (hc : e.openControl.CarriedBy stream) :
    e.CarriedBy stream := by
  obtain ⟨hpos, -, hlen⟩ := h
  have hbyte (k : Nat) (hk : k < e.cc.dstPos) : stream[k]? = (e.out.set e.cc.cbPos e.cc.cbVal)[k]? := by
    rw [hc.bytes k (Nat.lt_succ_of_lt hk) hk.ne]
    exact List.getElem?_append_left (by rwa [List.length_set, hlen])
  refine ⟨fun k hk hne => ?_, e.cc.cbVal, ?_, fun k hk => ?_⟩
  · rw [hbyte k hk, List.getElem?_set_ne hne.symm]
  · rw [hbyte _ hpos, List.getElem?_set_self (by rwa [hlen])]
  · rw [hfull, Nat.sub_self, Nat.zero_add]

theorem Emitter.CarriedBy.of_putBit {b : Bool} (h : e.ok) (hc : (e.putBit b).CarriedBy stream) :
    e.CarriedBy stream := by
  obtain ⟨-, hbits, -⟩ := id h
  unfold Emitter.putBit at hc
  split_ifs at hc with hfull
  · exact .of_openControl h hfull (.of_insertBit (by decide : 0 < 8) hc)
  · exact .of_insertBit (lt_of_le_of_ne hbits hfull) hc

theorem Emitter.CarriedBy.of_putByte {v : Byte} (h : e.ok) (hc : (e.putByte v).CarriedBy stream) :
    e.CarriedBy stream := by
  obtain ⟨-, -, hlen⟩ := h
  refine ⟨fun k hk hne => ?_, hc.control⟩
  rw [hc.bytes k (Nat.lt_succ_of_lt hk) hne]
  exact List.getElem?_append_left (by rwa [hlen])

theorem Emitter.putBits_ok (h : e.ok) (bits : List Bool) : (bits.foldl Emitter.putBit e).ok :=
  List.foldlRecOn bits Emitter.putBit h fun _ he b _ => Emitter.putBit_ok he b

theorem Emitter.CarriedBy.of_putBits {bits : List Bool} (h : e.ok)
    (hc : (bits.foldl Emitter.putBit e).CarriedBy stream) : e.CarriedBy stream := by
  induction bits generalizing e with
  | nil => exact hc
  | cons b bs ih => exact .of_putBit h (ih (Emitter.putBit_ok h b) hc)

theorem Emitter.CarriedBy.of_putBytes {bytes : List Byte} (h : e.ok)
    (hc : (bytes.foldl Emitter.putByte e).CarriedBy stream) : e.CarriedBy stream := by
  induction bytes generalizing e with
  | nil => exact hc
  | cons v vs ih => exact .of_putByte h (ih (Emitter.putByte_ok h v) hc)

theorem Emitter.CarriedBy.of_emitToken (h : e.ok) (hc : (e.emitToken i).CarriedBy stream) : e.CarriedBy stream :=
  .of_putBits h (.of_putBytes (Emitter.putBits_ok h _) hc)

/-! ### The decoder where an emitter stands -/

/-- The cursor has read what the emitter has put out: all its bytes, and the control bits so far of the open one. -/
structure Emitter.ReadBy (e : Emitter) (stream : List Byte) (c : DecodeCursor) : Prop where
  srcPos : c.srcPos = e.cc.dstPos
  cbLeft : c.cbLeft = 8 - e.cc.cbBits
  cbVal : ∃ v, stream[e.cc.cbPos]? = some v ∧ c.cbVal = v >>> e.cc.cbBits

/-- A bit of an open control byte that has room (R120). -/
theorem readBit_insertBit {b : Bool} (hbits : e.cc.cbBits < 8) (hc : (e.insertBit b).CarriedBy stream)
    (hr : e.ReadBy stream c) :
    ∃ c', readBit (byteSource stream) c = .ok (b, c') ∧ (e.insertBit b).ReadBy stream c' := by
  obtain ⟨v, hv, hcontrol⟩ := hc.control
  obtain ⟨v', hv', hval⟩ := hr.cbVal
  obtain rfl : v' = v := Option.some.inj (hv'.symm.trans hv)
  have hleft : c.cbLeft ≠ 0 := by
    rw [hr.cbLeft]
    omega
  have hbit : c.cbVal.getLsbD 0 = b := by
    have hlast := hcontrol e.cc.cbBits (Nat.lt_succ_self _)
    change v'.getLsbD e.cc.cbBits = (e.insertBit b).cc.cbVal.getLsbD (8 - (e.cc.cbBits + 1) + e.cc.cbBits) at hlast
    rw [Emitter.insertBit_getLsbD _ _ (by omega), if_pos (by omega)] at hlast
    rw [hval, BitVec.getLsbD_ushiftRight, Nat.add_zero, hlast]
  refine ⟨_, readBit_ok.2 (.inl ⟨hleft, Prod.ext hbit rfl⟩), hr.srcPos, ?_, v', hv, ?_⟩
  · change c.cbLeft - 1 = 8 - (e.cc.cbBits + 1)
    rw [hr.cbLeft]
    omega
  · change c.cbVal >>> 1 = v' >>> (e.cc.cbBits + 1)
    rw [hval, BitVec.shiftRight_add]

/-- A control byte opens on both sides when the next bit needs it (R73, R106, R120). -/
theorem readBit_putBit {b : Bool} (h : e.ok) (hc : (e.putBit b).CarriedBy stream) (hr : e.ReadBy stream c) :
    ∃ c', readBit (byteSource stream) c = .ok (b, c') ∧ (e.putBit b).ReadBy stream c' := by
  obtain ⟨-, hbits, -⟩ := id h
  unfold Emitter.putBit at hc ⊢
  split_ifs at hc ⊢ with hfull
  · obtain ⟨v, hv, -⟩ := hc.control
    change stream[e.cc.dstPos]? = some v at hv
    have hleft : c.cbLeft = 0 := by rw [hr.cbLeft, hfull]
    have hread : readByte (byteSource stream) c = .ok (v, { c with srcPos := c.srcPos + 1 }) :=
      readByte_ok.2 ⟨by rw [hr.srcPos]; exact hv, rfl⟩
    have hopen : e.openControl.ReadBy stream { c with srcPos := c.srcPos + 1, cbVal := v, cbLeft := 8 } :=
      ⟨congrArg (· + 1) hr.srcPos, rfl, v, hv, (BitVec.ushiftRight_zero v).symm⟩
    rw [readBit_opened hleft hread]
    exact readBit_insertBit (by decide : 0 < 8) hc hopen
  · exact readBit_insertBit (lt_of_le_of_ne hbits hfull) hc hr

theorem readByte_putByte {v : Byte} (h : e.ok) (hc : (e.putByte v).CarriedBy stream) (hr : e.ReadBy stream c) :
    ∃ c', readByte (byteSource stream) c = .ok (v, c') ∧ (e.putByte v).ReadBy stream c' := by
  obtain ⟨hpos, -, hlen⟩ := h
  have hv : stream[e.cc.dstPos]? = some v := by
    rw [hc.bytes _ (Nat.lt_succ_self _) hpos.ne', ← hlen]
    exact List.getElem?_concat_length
  exact ⟨_, readByte_ok.2 ⟨by rw [hr.srcPos]; exact hv, rfl⟩, congrArg (· + 1) hr.srcPos, hr.cbLeft, hr.cbVal⟩

theorem readsBits_putBits {bits : List Bool} (h : e.ok) (hc : (bits.foldl Emitter.putBit e).CarriedBy stream)
    (hr : e.ReadBy stream c) :
    ∃ c', ReadsBits (byteSource stream) bits c c' ∧ (bits.foldl Emitter.putBit e).ReadBy stream c' := by
  induction bits generalizing e c with
  | nil => exact ⟨c, rfl, hr⟩
  | cons b bs ih =>
    have hok := Emitter.putBit_ok h b
    obtain ⟨c1, hb, hr1⟩ := readBit_putBit h (.of_putBits hok hc) hr
    obtain ⟨c', hbs, hr'⟩ := ih hok hc hr1
    exact ⟨c', ⟨c1, hb, hbs⟩, hr'⟩

theorem readsBytes_putBytes {bytes : List Byte} (h : e.ok) (hc : (bytes.foldl Emitter.putByte e).CarriedBy stream)
    (hr : e.ReadBy stream c) :
    ∃ c', ReadsBytes (byteSource stream) bytes c c' ∧ (bytes.foldl Emitter.putByte e).ReadBy stream c' := by
  induction bytes generalizing e c with
  | nil => exact ⟨c, rfl, hr⟩
  | cons v vs ih =>
    have hok := Emitter.putByte_ok h v
    obtain ⟨c1, hv, hr1⟩ := readByte_putByte h (.of_putBytes hok hc) hr
    obtain ⟨c', hvs, hr'⟩ := ih hok hc hr1
    exact ⟨c', ⟨c1, hv, hvs⟩, hr'⟩

/-- Where the decoder stands at an emitter, it reads the token that the emitter puts out next. -/
theorem decodeToken_emitToken (htoken : i.isToken = true) (hwf : i.WellFormed) (h : e.ok)
    (hc : (e.emitToken i).CarriedBy stream) (hr : e.ReadBy stream c) :
    ∃ c', decodeToken (byteSource stream) c = .ok (i, c') ∧ (e.emitToken i).ReadBy stream c' := by
  have hok := Emitter.putBits_ok h (controlBits i)
  obtain ⟨c1, hbits, hr1⟩ := readsBits_putBits h (.of_putBytes hok hc) hr
  obtain ⟨c', hbytes, hr'⟩ := readsBytes_putBytes hok hc hr1
  exact ⟨c', decodeToken_of_reads htoken hwf hbits hbytes, hr'⟩

/-! ### The end of the stream (R108) -/

/-- The close of the last control byte moves its bits down (R74, R108). -/
theorem Emitter.carriedBy_closeControl (h : e.ok) : e.CarriedBy e.closeControl.out := by
  obtain ⟨hpos, -, hlen⟩ := h
  refine ⟨fun k _ hne => List.getElem?_set_ne hne.symm, _, List.getElem?_set_self (by rwa [hlen]), fun k _ => ?_⟩
  rw [BitVec.getLsbD_ushiftRight]

theorem Emitter.closeControl_putByte (h : e.ok) (v : Byte) : e.closeControl.putByte v = (e.putByte v).closeControl := by
  obtain ⟨hpos, -, hlen⟩ := h
  have hset : (e.out ++ [v]).set e.cc.cbPos (e.cc.cbVal >>> (8 - e.cc.cbBits)) =
      e.out.set e.cc.cbPos (e.cc.cbVal >>> (8 - e.cc.cbBits)) ++ [v] := List.set_append_left _ _ (by rwa [hlen])
  simp only [Emitter.closeControl, Emitter.putByte, hset]

/-- `finish` is the `END` token and the close of the last control byte. -/
theorem Emitter.finish_eq (h : e.ok) : e.finish = (e.emitToken .endStream).closeControl := by
  have hok : ((e.putBit false).putBit true).ok := Emitter.putBit_ok (Emitter.putBit_ok h _) _
  rw [Emitter.finish, Emitter.closeControl_putByte hok, Emitter.closeControl_putByte (Emitter.putByte_ok hok _)]
  rfl

theorem Emitter.emitToken_ok (h : e.ok) (i : Instr) : (e.emitToken i).ok :=
  List.foldlRecOn (dataBytes i) Emitter.putByte (Emitter.putBits_ok h (controlBits i))
    fun _ he v _ => Emitter.putByte_ok he v

theorem Emitter.carriedBy_finish (h : e.ok) : (e.emitToken .endStream).CarriedBy e.finish.out := by
  rw [Emitter.finish_eq h]
  exact Emitter.carriedBy_closeControl (Emitter.emitToken_ok h _)

end Sys2Proof.Machine
end

section
/-! SUPPORT. The round trip (40_prs_compressor.md R101-R111): each step of the compressor puts out a token that appends
the source bytes it covers, so the payload of the stream is the source. -/

namespace Sys2Proof.Machine

variable {window x : Nat} {src stream out : List Byte} {e : Emitter} {c : DecodeCursor}

/-! ### What the best match says (R101-R103) -/

theorem commonLength_spec (cap : Nat) (as bs : List Byte) :
    commonLength cap as bs ≤ cap ∧ ∀ k, k < commonLength cap as bs → as[k]? = bs[k]? := by
  induction cap generalizing as bs with
  | zero => cases as <;> simp [commonLength]
  | succ cap ih =>
    match as, bs with
    | [], _ | _ :: _, [] => simp [commonLength]
    | a :: as, b :: bs =>
      rw [commonLength]
      split
      next hab =>
        obtain ⟨hle, heq⟩ := ih as bs
        refine ⟨Nat.succ_le_succ hle, fun k hk => ?_⟩
        cases k with
        | zero => exact congrArg some hab
        | succ k => exact heq k (Nat.lt_of_succ_lt_succ hk)
      next => simp

/-- `best` is a length and a distance for which the source at `x` repeats itself (R102): no match yet, or a
candidate's. -/
def IsMatch (window : Nat) (src : List Byte) (x : Nat) (best : Nat × Nat) : Prop :=
  best.1 ≤ prsMaxMatch ∧ (∀ k, k < best.1 → src[x - best.2 + k]? = src[x + k]?) ∧
    (0 < best.1 → 3 ≤ best.2 ∧ best.2 ≤ window ∧ best.2 ≤ x)

theorem isMatch_candidate {y : Nat} (h : Candidate window x y) : IsMatch window src x (matchLen src x y, x - y) := by
  obtain ⟨hy, hwindow, hback⟩ := h
  obtain ⟨hcap, heq⟩ := commonLength_spec (min prsMaxMatch (x - y)) (src.drop y) (src.drop x)
  refine ⟨hcap.trans (Nat.min_le_left _ _), fun k hk => ?_, fun _ => ?_⟩
  · have hk' := heq k hk
    rw [List.getElem?_drop, List.getElem?_drop] at hk'
    rw [Nat.sub_sub_self (by omega), hk']
  · dsimp only
    omega

theorem candidate_of_lt {k : Nat} (h : k < candidateCount window x) : Candidate window x (x - prsMinLookback - k) := by
  have hmin : prsMinLookback = 3 := rfl
  unfold candidateCount at h
  rw [hmin] at h ⊢
  refine ⟨?_, ?_, ?_⟩ <;> omega

theorem isMatch_bestMatch (window : Nat) (src : List Byte) (x : Nat) :
    IsMatch window src x (bestMatch window src x) := by
  refine List.foldlRecOn (motive := IsMatch window src x) _ _ ?_ fun best hbest k hk => ?_
  · exact ⟨Nat.zero_le _, fun k hk => absurd hk (Nat.not_lt_zero k), fun h => absurd h (Nat.lt_irrefl 0)⟩
  · unfold considerMatch
    dsimp only
    split
    next => exact isMatch_candidate (candidate_of_lt (List.mem_range.1 hk))
    next => exact hbest

/-! ### A step as a token (R104) -/

/-- The token of the step at position `x`: a literal, or a copy of the best match (R104). -/
def compressToken (window : Nat) (src : List Byte) (x : Nat) : Instr :=
  if (bestMatch window src x).1 < prsMinMatch then .lit (src.getD x 0)
  else copyForm (bestMatch window src x).2 (bestMatch window src x).1

/-- The position after it. -/
def compressNext (window : Nat) (src : List Byte) (x : Nat) : Nat :=
  if (bestMatch window src x).1 < prsMinMatch then x + 1 else x + (bestMatch window src x).1

/-- Every copy of the compressor is one of R88's, and clear of the reserved distance (R79). -/
theorem bestMatch_copyDefined (hw : window ≤ 8191) (h : ¬ (bestMatch window src x).1 < prsMinMatch) :
    copyDefined (bestMatch window src x).2 (bestMatch window src x).1 ∧ (bestMatch window src x).2 ≠ 8192 := by
  have hmax : prsMaxMatch = 255 := rfl
  have hmin : prsMinMatch = 3 := rfl
  obtain ⟨hlen, -, hdist⟩ := isMatch_bestMatch window src x
  obtain ⟨hlo, hhi, -⟩ := hdist (by omega)
  unfold copyDefined
  omega

theorem compressStep_eq (hw : window ≤ 8191) (src : List Byte) (e : Emitter) :
    compressStep window src e =
      (e.emitToken (compressToken window src e.cc.x)).advanceTo (compressNext window src e.cc.x) := by
  unfold compressStep compressToken compressNext
  dsimp only
  split_ifs with h
  · rw [Emitter.emitLit_eq]
  · rw [emitCopy_eq (bestMatch_copyDefined hw h).1]

theorem copyForm_isToken (d len : Nat) : (copyForm d len).isToken = true ∧ copyForm d len ≠ .endStream := by
  unfold copyForm
  split_ifs <;> exact ⟨rfl, by simp⟩

theorem compressToken_ok (hw : window ≤ 8191) (src : List Byte) (x : Nat) :
    (compressToken window src x).isToken = true ∧ compressToken window src x ≠ .endStream ∧
      (compressToken window src x).WellFormed := by
  unfold compressToken
  split_ifs with h
  · exact ⟨rfl, by simp, rfl⟩
  · obtain ⟨hdefined, hreserved⟩ := bestMatch_copyDefined hw h
    obtain ⟨htoken, hne⟩ := copyForm_isToken (bestMatch window src x).2 (bestMatch window src x).1
    exact ⟨htoken, hne, copyForm_wellFormed hdefined (.inl hreserved)⟩

/-! ### What the token appends -/

theorem appendToken_of_copyOperands {i : Instr} {dist : Int} {len : Nat} (h : copyOperands i = some (dist, len))
    (out : List Byte) : appendToken i out = appendReference dist len out := by
  cases i with
  | lcopyt | lcopyh | scopy => cases h; rfl
  | endStream | lit | prsCompress | prsDecompress | prsSize | cipherCreateKeys | cipherCrypt | cipherNextWord
  | cipherRelease => cases h

theorem take_append_getElem (hx : x < src.length) : src.take x ++ [src[x]] = src.take (x + 1) := by
  rw [List.take_add_one, List.getElem?_eq_getElem hx]
  rfl

/-- A copy of bytes that the source repeats goes on with the source (R102, R132). -/
theorem appendCopy_take {d len : Nat} (hd : 1 ≤ d) (hdx : d ≤ x) (hlen : x + len ≤ src.length)
    (h : ∀ k, k < len → src[x - d + k]? = src[x + k]?) : appendCopy d len (src.take x) = src.take (x + len) := by
  induction len generalizing x with
  | zero => rfl
  | succ len ih =>
    have hx : x < src.length := by omega
    have htake : (src.take x).length = x := List.length_take_of_le hx.le
    have hbyte : (src.take x).getD (x - d) 0 = src[x] := by
      have hfirst := h 0 (Nat.succ_pos _)
      rw [Nat.add_zero, Nat.add_zero, List.getElem?_eq_getElem hx] at hfirst
      rw [List.getD_eq_getElem?_getD, List.getElem?_take_of_lt (by omega), hfirst]
      rfl
    have hrest := ih (x := x + 1) (by omega) (by omega) fun k hk => by
      have hnext := h (k + 1) (Nat.succ_lt_succ hk)
      rw [Nat.sub_add_comm hdx, Nat.add_assoc, Nat.add_assoc, Nat.add_comm 1]
      exact hnext
    rw [appendCopy, htake, hbyte, take_append_getElem hx, hrest, Nat.add_assoc, Nat.add_comm 1]

/-- The token of a step takes the output from the source's first `x` bytes to its first `compressNext` bytes. -/
theorem appendToken_compressToken (hw : window ≤ 8191) (hx : x < src.length) :
    appendToken (compressToken window src x) (src.take x) = some (src.take (compressNext window src x)) := by
  have hmin : prsMinMatch = 3 := rfl
  unfold compressToken compressNext
  split_ifs with h
  · rw [List.getD_eq_getElem _ _ hx, ← take_append_getElem hx]
    rfl
  · obtain ⟨hdefined, -⟩ := bestMatch_copyDefined hw h
    obtain ⟨-, heq, hdist⟩ := isMatch_bestMatch window src x
    obtain ⟨hlo, -, hdx⟩ := hdist (by omega)
    have hle := bestMatch_le window src x
    have htake : (src.take x).length = x := List.length_take_of_le hx.le
    rw [appendToken_of_copyOperands (copyOperands_copyForm hdefined), appendReference_eq_some]
    refine ⟨by omega, ?_⟩
    rw [neg_neg, Int.toNat_natCast]
    exact (appendCopy_take (by omega) hdx (by omega) heq).symm

/-! ### The whole stream -/

theorem Emitter.CarriedBy.of_compressLoop (hw : window ≤ 8191) (h : e.ok) {k : Nat}
    (hc : (compressLoop window src k e).CarriedBy stream) : e.CarriedBy stream := by
  induction k generalizing e with
  | zero => exact hc
  | succ k ih =>
    rw [compressLoop] at hc
    split_ifs at hc with hx
    · have hstep := ih (compressStep_ok window src h) hc
      rw [compressStep_eq hw] at hstep
      exact .of_emitToken (i := compressToken window src e.cc.x) h ⟨hstep.bytes, hstep.control⟩
    · exact hc

theorem compressLoop_ok (window : Nat) (src : List Byte) (k : Nat) (h : e.ok) : (compressLoop window src k e).ok := by
  induction k generalizing e with
  | zero => exact h
  | succ k ih =>
    rw [compressLoop]
    split_ifs
    · exact ih (compressStep_ok window src h)
    · exact h

theorem decodeToken_fuel {i : Instr} {c' : DecodeCursor} {fuel : Nat}
    (hd : decodeToken (byteSource stream) c = .ok (i, c')) (hfuel : stream.length < c.srcPos + fuel) :
    ∃ n, fuel = n + 1 ∧ stream.length < c'.srcPos + n := by
  obtain ⟨hlt, hle⟩ := decodeToken_srcPos (byteSource_none stream) hd
  exact ⟨fuel - 1, by omega, by omega⟩

/-- At the `END` token the payload is the output. -/
theorem payloadLoop_end (h : e.ok) (hc : (e.emitToken .endStream).CarriedBy stream) (hr : e.ReadBy stream c)
    {fuel : Nat} (hfuel : stream.length < c.srcPos + fuel) : payloadLoop (byteSource stream) fuel c out = some out := by
  obtain ⟨c', hd, -⟩ := decodeToken_emitToken rfl rfl h hc hr
  obtain ⟨n, rfl, -⟩ := decodeToken_fuel hd hfuel
  exact payloadLoop_succ.2 ⟨_, c', hd, .inl ⟨rfl, rfl⟩⟩

/-- From where the compressor stands at position `x`, with `x` bytes of output, the decoder goes on to the whole
source. -/
theorem payloadLoop_compressLoop (hw : window ≤ 8191) {k fuel : Nat} (h : e.ok) (hx : e.cc.x ≤ src.length)
    (hk : src.length ≤ e.cc.x + k)
    (hc : ((compressLoop window src k e).emitToken .endStream).CarriedBy stream) (hr : e.ReadBy stream c)
    (hfuel : stream.length < c.srcPos + fuel) :
    payloadLoop (byteSource stream) fuel c (src.take e.cc.x) = some src := by
  induction k generalizing e c fuel with
  | zero =>
    rw [List.take_of_length_le (show src.length ≤ e.cc.x from hk)]
    exact payloadLoop_end h hc hr hfuel
  | succ k ih =>
    rw [compressLoop] at hc
    split_ifs at hc with hlt
    · have hok := compressStep_ok window src h
      have hcstep : (compressStep window src e).CarriedBy stream :=
        .of_compressLoop hw hok (.of_emitToken (compressLoop_ok window src k hok) hc)
      have hmoved := compressStep_lt window src e
      have hxstep := compressStep_x_le window hlt
      obtain ⟨htoken, hne, hwf⟩ := compressToken_ok hw src e.cc.x
      rw [compressStep_eq hw] at hok hc hcstep hmoved hxstep
      obtain ⟨c', hd, hr'⟩ := decodeToken_emitToken htoken hwf h ⟨hcstep.bytes, hcstep.control⟩ hr
      obtain ⟨n, rfl, hn⟩ := decodeToken_fuel hd hfuel
      have hrest := ih hok hxstep (by omega) hc ⟨hr'.srcPos, hr'.cbLeft, hr'.cbVal⟩ hn
      exact payloadLoop_succ.2 ⟨_, c', hd, .inr ⟨hne, _, appendToken_compressToken hw hlt, hrest⟩⟩
    · rw [List.take_of_length_le (Nat.not_lt.1 hlt)]
      exact payloadLoop_end h hc hr hfuel

theorem Emitter.start_ok : Emitter.start.ok := ⟨Nat.one_pos, Nat.zero_le _, rfl⟩

/-- The loop from a cursor that has the first control byte still to open, or has it open (R25, R73). -/
theorem payloadLoop_opened {v : Byte} {c1 : DecodeCursor} {source : Nat → Option Byte} (hleft : c.cbLeft = 0)
    (h : readByte source c = .ok (v, c1)) (fuel : Nat) (out : List Byte) :
    payloadLoop source fuel c out = payloadLoop source fuel { c1 with cbVal := v, cbLeft := 8 } out := by
  cases fuel with
  | zero => rfl
  | succ fuel =>
    have hd : decodeToken source c = decodeToken source { c1 with cbVal := v, cbLeft := 8 } := by
      unfold decodeToken
      rw [readBit_opened hleft h]
    rw [payloadLoop, payloadLoop, hd]

/-- R111 on lists: the payload of a compressed stream is its source. -/
theorem payload_compressBytes (hw : window ≤ 8191) (src : List Byte) :
    payload (compressBytes window src) = some src := by
  have hok := compressLoop_ok window src src.length Emitter.start_ok
  have hcarried := Emitter.carriedBy_finish hok
  have hstart : Emitter.start.CarriedBy (compressBytes window src) :=
    .of_compressLoop hw Emitter.start_ok (.of_emitToken hok hcarried)
  obtain ⟨v, hv, -⟩ := hstart.control
  have hread : readByte (byteSource (compressBytes window src)) DecodeCursor.start =
      .ok (v, { DecodeCursor.start with srcPos := 1 }) := readByte_ok.2 ⟨hv, rfl⟩
  rw [payload, payloadLoop_opened rfl hread]
  exact payloadLoop_compressLoop hw Emitter.start_ok (Nat.zero_le _) (Nat.le_add_left _ _) hcarried
    ⟨rfl, rfl, v, hv, (BitVec.ushiftRight_zero v).symm⟩ (by dsimp only; omega)

/-! ### The commands -/

theorem lengthResult_of_lt (k : Nat) {n : Nat} (h : n < 2 ^ 32) : lengthResult k n = BitVec.ofNat 32 n :=
  if_pos (decide_eq_true h)

/-- Settles O25: the stream's payload is `b`, and the walk of each command delivers the payload. -/
theorem compressedStreamRoundTrip : Obligations.CompressedStreamRoundTrip := by
  intro s sb sl db dc b hacc hmem hw hstream hroom
  obtain ⟨hsrc, hdst, hsep⟩ := id hacc
  have hpayload : payload ((bufferOf sb sl).bytes s.mem) = some b := by
    rw [hstream]
    exact payload_compressBytes hw b
  have hfits : b.length < 2 ^ 32 := hroom.trans_lt dc.isLt
  constructor
  · have hvalid : (Walk.start (bufferOf sb sl) (some (bufferOf db dc))).valid s.cfg = true := by
      simp [Walk.valid, Walk.start, hsrc, hdst]
    obtain ⟨m, hrun, hdel⟩ := runDecode_delivers hvalid (fun _ _ => hmem)
      (by rintro d ⟨⟩; exact hsep) hpayload (by rintro d ⟨⟩; exact hroom)
    exact ⟨_, (execPrsDecompress_accepted hacc).trans hrun, rfl, lengthResult_of_lt _ hfits, (hdel.holds _ rfl).bytes⟩
  · have hvalid : (Walk.start (bufferOf sb sl) none).valid s.cfg = true := by
      simp [Walk.valid, Walk.start, hsrc]
    obtain ⟨m, hrun, -⟩ := runDecode_delivers hvalid (fun _ _ => hmem) (by rintro d ⟨⟩) hpayload (by rintro d ⟨⟩)
    exact ⟨_, (execPrsSize_accepted hsrc).trans hrun, rfl, lengthResult_of_lt _ hfits⟩

end Sys2Proof.Machine
end

section
/-! SUPPORT. The compressor's search and its step (40_prs_compressor.md R101-R104): a match as long as its four conditions
allow, the longest candidate with the nearest first, and what the step makes of it. -/

namespace Sys2Proof.Machine

variable {window x y n : Nat} {src : List Byte} {best : Nat × Nat} {C : Nat → Prop} {e : Emitter}

/-! ### The length of a match (R102) -/

/-- No common part within the cap is longer than the length found. -/
theorem le_commonLength {l cap : Nat} {as bs : List Byte} (hcap : l ≤ cap) (hlen : l ≤ bs.length)
    (heq : ∀ i, i < l → as[i]? = bs[i]?) : l ≤ commonLength cap as bs := by
  induction l generalizing cap as bs with
  | zero => exact Nat.zero_le _
  | succ l ih =>
    have hfirst := heq 0 (Nat.succ_pos l)
    match cap, as, bs with
    | 0, _, _ => omega
    | _ + 1, _, [] => exact absurd hlen (Nat.not_succ_le_zero l)
    | _ + 1, [], _ :: _ => cases hfirst
    | cap + 1, a :: as, b :: bs =>
      rw [commonLength, if_pos (Option.some.inj hfirst)]
      exact Nat.succ_le_succ (ih (Nat.le_of_succ_le_succ hcap) (Nat.le_of_succ_le_succ hlen)
        fun i hi => heq (i + 1) (Nat.succ_lt_succ hi))

/-- R102's caps: `PRS_MAX_MATCH`, and the reference before `x`. -/
theorem matchLen_le_cap (src : List Byte) (x y : Nat) : matchLen src x y ≤ 255 ∧ matchLen src x y ≤ x - y := by
  obtain ⟨hcap, -⟩ := commonLength_spec (min prsMaxMatch (x - y)) (src.drop y) (src.drop x)
  exact le_min_iff.1 hcap

theorem getElem?_of_lt_matchLen {i : Nat} (h : i < matchLen src x y) : src[y + i]? = src[x + i]? := by
  obtain ⟨-, heq⟩ := commonLength_spec (min prsMaxMatch (x - y)) (src.drop y) (src.drop x)
  rw [← List.getElem?_drop, ← List.getElem?_drop]
  exact heq i h

theorem le_matchLen {l : Nat} (hmax : l ≤ 255) (href : y + l ≤ x) (hend : x + l ≤ src.length)
    (heq : ∀ i, i < l → src[y + i]? = src[x + i]?) : l ≤ matchLen src x y := by
  refine le_commonLength (le_min hmax (by omega)) (by rw [List.length_drop]; omega) fun i hi => ?_
  rw [List.getElem?_drop, List.getElem?_drop]
  exact heq i hi

/-- Settles O26: the length found meets each condition, and any length that does is a common part within the cap. -/
theorem matchLengthIsLargest : Obligations.MatchLengthIsLargest := by
  intro src x y hyx hx
  obtain ⟨hmax, href⟩ := matchLen_le_cap src x y
  have hend := matchLen_le src x y
  refine ⟨⟨hmax, by omega, by omega, fun i hi => getElem?_of_lt_matchLen hi⟩, ?_⟩
  rintro l ⟨hmax, href, hend, heq⟩
  exact le_matchLen hmax href hend heq

/-! ### The best match (R101, R103) -/

/-- `best` is the greatest match length among the candidates of `C`, with the smallest distance that gives it (R103). -/
structure BestOf (C : Nat → Prop) (src : List Byte) (x : Nat) (best : Nat × Nat) : Prop where
  longest : ∀ y, C y → matchLen src x y ≤ best.1
  unmatched : best.1 = 0 → best.2 = 0
  nearest : 0 < best.1 → best.2 ≤ x ∧ C (x - best.2) ∧ matchLen src x (x - best.2) = best.1 ∧
    ∀ y, C y → matchLen src x y = best.1 → best.2 ≤ x - y

theorem BestOf.congr {C' : Nat → Prop} (h : BestOf C src x best) (hC : ∀ y, C y ↔ C' y) : BestOf C' src x best := by
  obtain rfl : C = C' := funext fun y => propext (hC y)
  exact h

/-- A candidate farther than all before it replaces the best exactly when it is strictly longer (R103). -/
theorem bestOf_considerMatch (h : BestOf C src x best) (hy : y ≤ x) (hfar : ∀ z, C z → y < z) :
    BestOf (fun z => C z ∨ z = y) src x (considerMatch src x best y) := by
  unfold considerMatch
  dsimp only
  split
  next hlonger =>
    refine ⟨?_, fun hzero => ?_, fun _ => ⟨Nat.sub_le x y, .inr (Nat.sub_sub_self hy), ?_, ?_⟩⟩
    · rintro z (hz | rfl)
      · exact (h.longest z hz).trans hlonger.le
      · exact le_rfl
    · dsimp only at hzero
      omega
    · rw [Nat.sub_sub_self hy]
    · rintro z (hz | rfl) heq
      · exact absurd (h.longest z hz) (by omega)
      · exact le_rfl
  next hshorter =>
    refine ⟨?_, h.unmatched, fun hpos => ?_⟩
    · rintro z (hz | rfl)
      · exact h.longest z hz
      · exact Nat.not_lt.1 hshorter
    · obtain ⟨hle, hbest, hlen, hnear⟩ := h.nearest hpos
      refine ⟨hle, .inl hbest, hlen, ?_⟩
      rintro z (hz | rfl) heq
      · exact hnear z hz heq
      · have := hfar _ hbest
        omega

/-- After `n` rounds the search has seen the `n` positions from `x - 3` downward. -/
theorem bestOf_range (src : List Byte) (hn : n + 2 ≤ x ∨ n = 0) :
    BestOf (fun y => y + 3 ≤ x ∧ x < y + 3 + n) src x
      ((List.range n).foldl (fun best k => considerMatch src x best (x - prsMinLookback - k)) (0, 0)) := by
  have hmin : prsMinLookback = 3 := rfl
  induction n with
  | zero => exact ⟨fun y hy => by omega, fun _ => rfl, fun hpos => absurd hpos (Nat.lt_irrefl 0)⟩
  | succ n ih =>
    rw [List.range_succ, List.foldl_append]
    have hround := bestOf_considerMatch (y := x - prsMinLookback - n) (ih (by omega)) (by omega) (by omega)
    exact hround.congr fun y => by omega

/-- The positions seen are the candidates of R101. -/
theorem bestOf_bestMatch (window : Nat) (src : List Byte) (x : Nat) :
    BestOf (Candidate window x) src x (bestMatch window src x) := by
  have hcount : candidateCount window x = x + 1 - 3 - max 1 (x - window) := rfl
  exact (bestOf_range src (by omega)).congr fun y => by omega

/-- Settles O27: the three clauses are those of `BestOf`. -/
theorem bestMatchIsLongestNearest : Obligations.BestMatchIsLongestNearest := by
  intro window src x
  obtain ⟨hlongest, hunmatched, hnearest⟩ := bestOf_bestMatch window src x
  exact ⟨hlongest, hunmatched, hnearest⟩

/-! ### The step (R104) -/

theorem compressStep_lit (h : (bestMatch window src e.cc.x).1 < 3) :
    compressStep window src e = (e.emitLit (src.getD e.cc.x 0)).advanceTo (e.cc.x + 1) :=
  if_pos h

theorem compressStep_copy (h : 3 ≤ (bestMatch window src e.cc.x).1) :
    compressStep window src e =
      (e.emitCopy (-((bestMatch window src e.cc.x).2 : Int)) (bestMatch window src e.cc.x).1).advanceTo
        (e.cc.x + (bestMatch window src e.cc.x).1) :=
  if_neg (Nat.not_lt.2 h)

/-- A match that is found stays before `x` and within the window (R101, R102). -/
theorem bestMatch_ranges (h : 0 < (bestMatch window src x).1) :
    (bestMatch window src x).1 ≤ 255 ∧ (bestMatch window src x).1 ≤ (bestMatch window src x).2 ∧
      (bestMatch window src x).2 ≤ window := by
  obtain ⟨hle, ⟨-, hwindow, -⟩, hlen, -⟩ := (bestOf_bestMatch window src x).nearest h
  obtain ⟨hmax, href⟩ := matchLen_le_cap src x (x - (bestMatch window src x).2)
  omega

/-- Settles O29: the two forms of the step, the ranges of the match it copies, and the position's bounds. -/
theorem compressorAdvances : Obligations.CompressorAdvances := by
  intro window src e b hb
  have hx : e.cc.x < src.length := (List.getElem?_eq_some_iff.1 hb).1
  have hbyte : src.getD e.cc.x 0 = b := by rw [List.getD_eq_getElem?_getD, hb]; rfl
  refine ⟨fun hlit => ?_, fun hcopy => ⟨compressStep_copy hcopy, bestMatch_ranges (by omega)⟩,
    compressStep_lt window src e, compressStep_x_le window hx⟩
  rw [compressStep_lit hlit, hbyte]

end Sys2Proof.Machine
end

section
/-! SUPPORT. The length of the stream (40_prs_compressor.md R104-R109). Counted in bits, a literal is 9 and a copy at most
27, for 3 source bytes or more; so 9 bits for each source byte bound the stream. -/

namespace Sys2Proof.Machine

variable {window : Nat} {src : List Byte} {e : Emitter}

/-! ### What each emission adds -/

/-- The bits put out: 8 for each byte before the open control byte's bits, with that byte counted as full. -/
def Emitter.bitLoad (e : Emitter) : Nat := 8 * e.cc.dstPos + e.cc.cbBits

/-- A control byte that opens adds 8 and gives back the 8 bits of the one before it (R106). -/
@[simp] theorem Emitter.bitLoad_putBit (e : Emitter) (b : Bool) : (e.putBit b).bitLoad = e.bitLoad + 1 := by
  unfold Emitter.putBit
  split
  next hfull =>
    change 8 * (e.cc.dstPos + 1) + (0 + 1) = 8 * e.cc.dstPos + e.cc.cbBits + 1
    omega
  next => rfl

@[simp] theorem Emitter.bitLoad_putByte (e : Emitter) (v : Byte) : (e.putByte v).bitLoad = e.bitLoad + 8 := by
  change 8 * (e.cc.dstPos + 1) + e.cc.cbBits = 8 * e.cc.dstPos + e.cc.cbBits + 8
  omega

@[simp] theorem Emitter.bitLoad_advanceTo (e : Emitter) (x : Nat) : (e.advanceTo x).bitLoad = e.bitLoad := rfl

@[simp] theorem Emitter.bitLoad_closeControl (e : Emitter) : e.closeControl.bitLoad = e.bitLoad := rfl

theorem Emitter.bitLoad_emitLit (e : Emitter) (b : Byte) : (e.emitLit b).bitLoad = e.bitLoad + 9 := by
  simp [Emitter.emitLit]

/-- The longest form is 26 bits, the shortest copy 3 source bytes (R107). -/
theorem Emitter.bitLoad_emitCopy (e : Emitter) (dist : Int) {len : Nat} (hlen : 3 ≤ len) :
    (e.emitCopy dist len).bitLoad ≤ e.bitLoad + 9 * len := by
  have hshort : (e.emitScopy dist len).bitLoad = e.bitLoad + 12 := by simp [Emitter.emitScopy]
  have hheader : (e.emitLcopyh dist len).bitLoad = e.bitLoad + 18 := by simp [Emitter.emitLcopyh]
  have htrailer : (e.emitLcopyt dist len).bitLoad = e.bitLoad + 26 := by simp [Emitter.emitLcopyt]
  unfold Emitter.emitCopy
  split_ifs <;> omega

theorem Emitter.bitLoad_finish (e : Emitter) : e.finish.bitLoad = e.bitLoad + 18 := by
  simp [Emitter.finish]

/-! ### The loop (R104, R110) -/

theorem bitLoad_compressStep_lit (h : (bestMatch window src e.cc.x).1 < 3) :
    (compressStep window src e).bitLoad + 9 * e.cc.x = e.bitLoad + 9 * (compressStep window src e).cc.x := by
  rw [compressStep_lit h, Emitter.bitLoad_advanceTo, Emitter.bitLoad_emitLit]
  change e.bitLoad + 9 + 9 * e.cc.x = e.bitLoad + 9 * (e.cc.x + 1)
  omega

theorem bitLoad_compressStep (window : Nat) (src : List Byte) (e : Emitter) :
    (compressStep window src e).bitLoad + 9 * e.cc.x ≤ e.bitLoad + 9 * (compressStep window src e).cc.x := by
  obtain hlit | hcopy := Nat.lt_or_ge (bestMatch window src e.cc.x).1 3
  · exact (bitLoad_compressStep_lit hlit).le
  · rw [compressStep_copy hcopy, Emitter.bitLoad_advanceTo]
    have hadded := e.bitLoad_emitCopy (-((bestMatch window src e.cc.x).2 : Int)) hcopy
    change _ ≤ e.bitLoad + 9 * (e.cc.x + (bestMatch window src e.cc.x).1)
    omega

/-- With enough rounds the loop ends at the source's end. -/
theorem compressLoop_x {k : Nat} (hx : e.cc.x ≤ src.length) (hk : src.length ≤ e.cc.x + k) :
    (compressLoop window src k e).cc.x = src.length := by
  induction k generalizing e with
  | zero => exact le_antisymm hx hk
  | succ k ih =>
    rw [compressLoop]
    split_ifs with hlt
    · have hmoved := compressStep_lt window src e
      exact ih (compressStep_x_le window hlt) (by omega)
    · exact le_antisymm hx (Nat.not_lt.1 hlt)

/-- What every step of the loop keeps, the loop keeps. -/
theorem compressLoop_keeps {P : Emitter → Prop}
    (hstep : ∀ e, e.cc.x < src.length → P e → P (compressStep window src e)) (h : P e) (k : Nat) :
    P (compressLoop window src k e) := by
  induction k generalizing e with
  | zero => exact h
  | succ k ih =>
    rw [compressLoop]
    split_ifs with hlt
    · exact ih (hstep e hlt h)
    · exact h

/-- 8 bits for the first control byte, and at most 9 for each source byte. -/
theorem bitLoad_compressLoop (window : Nat) (src : List Byte) (k : Nat) :
    (compressLoop window src k Emitter.start).bitLoad ≤ 8 + 9 * (compressLoop window src k Emitter.start).cc.x := by
  refine compressLoop_keeps (P := fun e => e.bitLoad ≤ 8 + 9 * e.cc.x) (fun e _ he => ?_) le_rfl k
  have hstep := bitLoad_compressStep window src e
  omega

theorem bitLoad_compressLoop_lit (hlit : ∀ x, x < src.length → (bestMatch window src x).1 < 3) (k : Nat) :
    (compressLoop window src k Emitter.start).bitLoad = 8 + 9 * (compressLoop window src k Emitter.start).cc.x := by
  refine compressLoop_keeps (P := fun e => e.bitLoad = 8 + 9 * e.cc.x) (fun e hlt he => ?_) rfl k
  have hstep := bitLoad_compressStep_lit (hlit e.cc.x hlt)
  omega

/-! ### The whole stream (R108, R109) -/

theorem Emitter.closeControl_ok (h : e.ok) : e.closeControl.ok := by
  obtain ⟨hpos, hbits, hlen⟩ := h
  exact ⟨hpos, hbits, List.length_set.trans hlen⟩

theorem Emitter.finish_ok (h : e.ok) : e.finish.ok := by
  rw [Emitter.finish_eq h]
  exact Emitter.closeControl_ok (Emitter.emitToken_ok h _)

theorem Emitter.putBit_cbBits_pos (e : Emitter) (b : Bool) : 0 < (e.putBit b).cc.cbBits := by
  unfold Emitter.putBit
  split <;> exact Nat.succ_pos _

/-- `END`'s bits leave the last control byte open, with 1 to 8 bits. -/
theorem Emitter.finish_cbBits (h : e.ok) : 0 < e.finish.cc.cbBits ∧ e.finish.cc.cbBits ≤ 8 := by
  obtain ⟨-, hbits, -⟩ := Emitter.finish_ok h
  exact ⟨(e.putBit false).putBit_cbBits_pos true, hbits⟩

/-- The compressor at the end of the source and of its stream. -/
def compressed (window : Nat) (src : List Byte) : Emitter := (compressLoop window src src.length Emitter.start).finish

theorem compressed_out (window : Nat) (src : List Byte) : (compressed window src).out = compressBytes window src := rfl

theorem compressed_ok (window : Nat) (src : List Byte) : (compressed window src).ok :=
  Emitter.finish_ok (compressLoop_ok window src src.length Emitter.start_ok)

/-- The stream's length from the bits before `END`: all of them, and `END`'s 18, in full bytes. -/
theorem compressBytes_length (window : Nat) (src : List Byte) :
    (compressBytes window src).length = ((compressLoop window src src.length Emitter.start).bitLoad + 17) / 8 := by
  obtain ⟨-, -, hlen⟩ := compressed_ok window src
  obtain ⟨hpos, hle⟩ := Emitter.finish_cbBits (compressLoop_ok window src src.length Emitter.start_ok)
  have hload := (compressLoop window src src.length Emitter.start).bitLoad_finish
  rw [← compressed_out, hlen]
  unfold compressed
  unfold Emitter.bitLoad at hload ⊢
  omega

/-- Settles O24: 9 bits for each source byte, 8 for the first control byte and 18 for `END`, in full bytes. -/
theorem compressedLengthBound : Obligations.CompressedLengthBound := by
  intro window src
  have hend : (compressLoop window src src.length Emitter.start).cc.x = src.length :=
    compressLoop_x (Nat.zero_le _) (Nat.le_add_left _ _)
  rw [compressBytes_length]
  constructor
  · have hload := bitLoad_compressLoop window src src.length
    omega
  · intro hlit
    have hload := bitLoad_compressLoop_lit hlit src.length
    omega

end Sys2Proof.Machine
end

section
/-! SUPPORT. The end of `PRS.COMPRESS` (40_prs_compressor.md R110): the stream is written, or the capacity is short. -/

namespace Sys2Proof.Machine

variable {s : State} {dst : Buffer} {e : Emitter}

theorem freeBytes_length (k n : Nat) : (freeBytes k n).length = n := by simp [freeBytes]

/-- A PRS error with a destination changes that destination and the outcome only (R203). -/
theorem prsError_endsInError (d : Buffer) (err : ErrorCode) (s : State) :
    endsInError (statusOf err) (some d) s (s.prsError (some d) err) := by
  refine ⟨rfl, rfl, rfl, State.prsError_slots .., State.prsError_cfg .., State.prsError_port .., ?_, nofun⟩
  rintro _ ⟨⟩ a ha
  refine Memory.writeBytes_read_outside _ _ _ ?_
  rwa [freeBytes_length]

theorem deliver_fits (h : e.ok) (hfit : e.out.length ≤ dst.len) :
    deliver dst e s = (s.withMem (s.mem.writeBytes dst.base e.out)).prsOk e.out.length := by
  obtain ⟨-, -, hlen⟩ := h
  rw [hlen] at hfit
  rw [deliver, if_neg (Nat.not_lt.2 hfit), List.take_of_length_le hlen.le, hlen]

theorem deliver_tooSmall (h : e.ok) (hsmall : dst.len < e.out.length) :
    deliver dst e s = s.prsError (some dst) .destinationTooSmall := by
  obtain ⟨-, -, hlen⟩ := h
  exact if_pos (hlen ▸ hsmall)

theorem runCompress_eq (src dst : Buffer) (s : State) :
    runCompress src dst s = deliver dst (compressed s.cfg.prsWindow (src.bytes s.mem)) s := by
  rw [runCompress, compressed, Buffer.bytes, Memory.readBytes_length]

/-- A stream that fits is written at the start of the destination, and its length reported (R110, R40). -/
theorem deliver_fits_outcome (h : e.ok) (hmem : s.mem.wf) (hfit : e.out.length ≤ dst.len)
    (hword : e.out.length < 2 ^ 32) :
    (deliver dst e s).status = 0x00 ∧ (deliver dst e s).result = BitVec.ofNat 32 e.out.length ∧
      (deliver dst e s).mem.readBytes dst.base e.out.length = e.out ∧
      sameOutside { base := dst.base, len := e.out.length } s.mem (deliver dst e s).mem ∧
      (deliver dst e s).slots = s.slots ∧ (deliver dst e s).job = none ∧ sameModelFields s (deliver dst e s) := by
  have hdraws : lengthResultDraws e.out.length = 0 := if_pos (decide_eq_true hword)
  rw [deliver_fits h hfit]
  refine ⟨rfl, lengthResult_of_lt _ hword, Memory.readBytes_writeBytes hmem _ _,
    fun a ha => Memory.writeBytes_read_outside _ _ _ ha, rfl, rfl, rfl, rfl, ?_⟩
  rw [State.prsOk_freeCount, hdraws]
  rfl

/-- Settles O23: the command delivers the stream of its source, by the two ends of R110. -/
theorem compressWritesStream : Obligations.CompressWritesStream := by
  intro s sb sl db dc hacc hmem
  have hrun := execPrsCompress_accepted hacc
  rw [runCompress_eq] at hrun
  have hok := compressed_ok s.cfg.prsWindow ((bufferOf sb sl).bytes s.mem)
  refine ⟨fun hfit => ⟨_, hrun, ?fits⟩, fun hsmall => ⟨_, hrun, ?tooSmall⟩⟩
  case fits => exact deliver_fits_outcome hok hmem hfit (hfit.trans_lt dc.isLt)
  case tooSmall =>
    rw [deliver_tooSmall hok hsmall]
    exact prsError_endsInError _ _ s

end Sys2Proof.Machine
end

section
/-! SUPPORT. One token of a walk in progress: a literal (41_prs_decompressor.md R123), `END` (R127), and the two errors, a
stream that reads past the start or the end of what there is (R121, R131) and output past the capacity (R133). -/

namespace Sys2Proof.Machine

variable {s : State} {w : Walk} {i : Instr} {dist : Int} {len : Nat}

/-! ### The step of a walk (R121, R122) -/

/-- Settles O8: the decoder gives tokens only, and the step gives a token the meaning of `exec`. -/
theorem stepRunsStreamToken : Obligations.StepRunsStreamToken := by
  intro s w i dc hj hv hd
  rw [step_of_decode hj, ← walkStepWith_exec, walkStepWith, onWalk_decode hj hv, fetchToken, hd]

theorem walkStep_exhausted {e : DecodeError} (hj : s.job = some (.decode w)) (hv : w.valid s.cfg = true)
    (hd : decodeToken (w.source s.mem) w.dc = .error e) :
    walkStep s = .next (s.prsError w.dst .malformedCompressedStream) :=
  walkStepWith_next.2 ⟨w, hj, hv, .inl ⟨e, hd, rfl⟩⟩

/-! ### The errors (R131, R133) -/

theorem copyToken_beforeStart (hj : s.job = some (.decode w)) (hv : w.valid s.cfg = true)
    (hstart : (w.dc.dstPos : Int) + dist < 0) :
    copyToken dist len s = .next (s.prsError w.dst .malformedCompressedStream) :=
  copyToken_next.2 ⟨w, hj, hv, .inl ⟨hstart, rfl⟩⟩

theorem copyToken_noRoom (hj : s.job = some (.decode w)) (hv : w.valid s.cfg = true)
    (hstart : 0 ≤ (w.dc.dstPos : Int) + dist) (hroom : w.hasRoom len = false) :
    copyToken dist len s = .next (s.prsError w.dst .destinationTooSmall) :=
  copyToken_next.2 ⟨w, hj, hv, .inr (.inr ⟨hstart, hroom, rfl⟩)⟩

theorem execLit_room (hj : s.job = some (.decode w)) (hv : w.valid s.cfg = true) (hroom : w.hasRoom 1 = true) (b : Byte) :
    execLit b s = .next (s.putOutput w b) :=
  execLit_next.2 ⟨w, hj, hv, .inl ⟨hroom, rfl⟩⟩

theorem execLit_noRoom (hj : s.job = some (.decode w)) (hv : w.valid s.cfg = true) (hroom : w.hasRoom 1 = false)
    (b : Byte) : execLit b s = .next (s.prsError w.dst .destinationTooSmall) :=
  execLit_next.2 ⟨w, hj, hv, .inr ⟨hroom, rfl⟩⟩

theorem Walk.hasRoom_some {d : Buffer} (hd : w.dst = some d) (n : Nat) :
    w.hasRoom n = decide (w.dc.dstPos + n ≤ d.len) := by
  rw [Walk.hasRoom, hd, Option.elim]

/-- An error after output that stayed within the destination changes that destination and the outcome only (R203). -/
theorem prsError_endsInError_of_frame {dst : Option Buffer} {m : Memory} (err : ErrorCode)
    (hframe : ∀ d ∈ dst, sameOutside d s.mem m) (hprobe : dst = none → m = s.mem) :
    endsInError (statusOf err) dst s ((s.withMem m).prsError dst err) := by
  cases dst with
  | none =>
    rw [hprobe rfl]
    exact ⟨rfl, rfl, rfl, rfl, rfl, rfl, nofun, fun _ => ⟨rfl, rfl⟩⟩
  | some d =>
    obtain ⟨hstatus, hresult, hjob, hslots, hcfg, hport, hmem, -⟩ := prsError_endsInError d err (s.withMem m)
    refine ⟨hstatus, hresult, hjob, hslots, hcfg, hport, ?_, nofun⟩
    rintro _ ⟨⟩ a ha
    exact (hmem d rfl a ha).trans (hframe d rfl a ha)

/-- An error of a token, with a destination or in the size probe (R203). -/
theorem tokenError_endsInError (s : State) (dst : Option Buffer) (err : ErrorCode) :
    endsInError (statusOf err) dst s (s.prsError dst err) :=
  prsError_endsInError_of_frame (m := s.mem) err (fun _ _ _ _ => rfl) fun _ => rfl

/-- Settles O9: the round of the walk ends the command on an exhausted source. -/
theorem exhaustedStreamIsMalformed : Obligations.ExhaustedStreamIsMalformed := by
  intro s w e hj hv hd
  exact ⟨_, (step_of_decode hj).trans (walkStep_exhausted hj hv hd), tokenError_endsInError s w.dst _⟩

/-- Settles O15: every copy token runs the copy of R130, whose first check is R131's. -/
theorem referenceBeforeStartIsMalformed : Obligations.ReferenceBeforeStartIsMalformed := by
  intro s w i dist len hi hj hv hstart
  exact ⟨_, (exec_copy hi s).trans (copyToken_beforeStart hj hv hstart), tokenError_endsInError s w.dst _⟩

/-- A literal or a copy of `n` bytes in range, by whether the bytes fit (R133). -/
theorem exec_output {n : Nat} (hj : s.job = some (.decode w)) (hv : w.valid s.cfg = true)
    (hi : (∃ b, i = .lit b ∧ n = 1) ∨ ∃ dist, copyOperands i = some (dist, n) ∧ 0 ≤ (w.dc.dstPos : Int) + dist) :
    (w.hasRoom n = false → exec i s = .next (s.prsError w.dst .destinationTooSmall)) ∧
      (w.hasRoom n = true → ∃ t, exec i s = .next t ∧ t.job = some (.decode (w.produced n))) := by
  obtain ⟨b, rfl, rfl⟩ | ⟨dist, hcopy, hstart⟩ := hi
  · exact ⟨fun hroom => execLit_noRoom hj hv hroom b, fun hroom => ⟨_, execLit_room hj hv hroom b, rfl⟩⟩
  · rw [exec_copy hcopy]
    exact ⟨copyToken_noRoom hj hv hstart, fun hroom => ⟨_, copyToken_room hj hv hstart hroom, rfl⟩⟩

/-- Settles O16, by the two sides of the capacity check. -/
theorem outputPastCapacityIsTooSmall : Obligations.OutputPastCapacityIsTooSmall := by
  intro s w d i n hj hd hv hi
  have hroom := Walk.hasRoom_some hd n
  obtain ⟨tooSmall, fits⟩ := exec_output hj hv hi
  constructor
  · intro hpast
    have hexec := tooSmall (hroom.trans (decide_eq_false (Nat.not_le.2 hpast)))
    rw [hd] at hexec
    exact ⟨_, hexec, tokenError_endsInError s _ _⟩
  · intro hfull
    obtain ⟨t, hexec, hjob⟩ := fits (hroom.trans (decide_eq_true hfull.le))
    exact ⟨t, w.produced n, hexec, hjob, hfull⟩

/-! ### `LIT` and `END` (R123, R127) -/

/-- Settles O12: where a destination is written, the literal is one write at the output position. -/
theorem litAppendsItsByte : Obligations.LitAppendsItsByte := by
  intro s w b hj hv hmem hroom
  obtain ⟨m, hput, hm⟩ := s.putOutput_eq w b
  refine ⟨(s.withMem m).withJob (some (.decode (w.produced 1))), ?_, rfl, fun d hd => ?_, fun hd => ?_, rfl, rfl, rfl,
    rfl, rfl, rfl⟩
  · rw [← hput]
    exact execLit_room hj hv (Walk.hasRoom_iff.2 hroom) b
  · rw [Option.mem_def.1 hd] at hm
    rw [State.withJob_mem, State.withMem_mem, hm]
    exact ⟨Memory.read_write_self hmem _ b, fun a ha => Memory.read_write_ne _ _ ha.symm⟩
  · rw [hd] at hm
    exact hm

theorem lengthResultDraws_of_lt {n : Nat} (h : n < 2 ^ 32) : lengthResultDraws n = 0 :=
  if_pos (decide_eq_true h)

/-- A length that fits `RESULT` is reported as it is and draws no free value (R40; log 9). -/
theorem prsOk_of_lt (s : State) {n : Nat} (h : n < 2 ^ 32) :
    (s.prsOk n).result = BitVec.ofNat 32 n ∧ (s.prsOk n).freeCount = s.freeCount := by
  rw [State.prsOk_result, State.prsOk_freeCount, lengthResult_of_lt _ h, lengthResultDraws_of_lt h]
  exact ⟨rfl, rfl⟩

/-- Settles O14: `END` is the end of the command with the output position as its length. -/
theorem endStreamEndsCommand : Obligations.EndStreamEndsCommand := by
  intro s w hj hv
  exact ⟨s.prsOk w.dc.dstPos, execEndStream_next.2 ⟨w, hj, hv, rfl⟩, rfl, rfl, rfl, rfl, rfl, rfl, prsOk_of_lt s⟩

end Sys2Proof.Machine
end

section
/-! SUPPORT. The decode walk on a stream without a payload that fits (41_prs_decompressor.md R121, R131, R133): it follows the
loop on lists up to the first token that reads past the source, starts before the output or passes the capacity, and ends
there with that token's error. -/

namespace Sys2Proof.Machine

variable {src : Nat → Option Byte} {k : Nat} {c c' : DecodeCursor} {i : Instr} {out out' : List Byte} {m m0 : Memory}
  {dst : Option Buffer} {s : State} {w : Walk}

/-! ### The loop on lists, unrolled once -/

theorem producedLoop_error {e : DecodeError} (hd : decodeToken src c = .error e) :
    producedLoop src (k + 1) c out = out := by
  rw [producedLoop, hd]

theorem producedLoop_none (hd : decodeToken src c = .ok (i, c')) (hne : i ≠ .endStream) (happ : appendToken i out = none) :
    producedLoop src (k + 1) c out = out := by
  simp [producedLoop, hd, hne, happ]

theorem producedLoop_some (hd : decodeToken src c = .ok (i, c')) (hne : i ≠ .endStream)
    (happ : appendToken i out = some out') : producedLoop src (k + 1) c out = producedLoop src k c' out' := by
  simp [producedLoop, hd, hne, happ]

/-- The loop only appends. -/
theorem length_le_producedLoop (src : Nat → Option Byte) (k : Nat) (c : DecodeCursor) (out : List Byte) :
    out.length ≤ (producedLoop src k c out).length := by
  induction k generalizing c out with
  | zero => exact le_rfl
  | succ k ih =>
    cases hd : decodeToken src c with
    | error e => rw [producedLoop_error hd]
    | ok p =>
      obtain ⟨i, c'⟩ := p
      by_cases hend : i = .endStream
      · simp [producedLoop, hd, hend]
      · cases happ : appendToken i out with
        | none => rw [producedLoop_none hd hend happ]
        | some out' =>
          rw [producedLoop_some hd hend happ]
          exact (appendToken_length hend happ).1.trans (ih c' out')

/-- A token appends nothing only as a copy that starts before the output (R131). -/
theorem copy_of_appendToken_none (htoken : i.isToken = true) (happ : appendToken i out = none) :
    ∃ dist len, copyOperands i = some (dist, len) ∧ (out.length : Int) + dist < 0 := by
  have beforeStart {dist : Int} {len : Nat} (h : appendReference dist len out = none) : (out.length : Int) + dist < 0 := by
    by_contra hstart
    rw [appendReference, if_neg hstart] at h
    cases h
  cases i with
  | endStream | lit => cases happ
  | lcopyt | lcopyh | scopy => exact ⟨_, _, rfl, beforeStart happ⟩
  | prsCompress | prsDecompress | prsSize | cipherCreateKeys | cipherCrypt | cipherNextWord | cipherRelease => cases htoken

/-! ### The error a stream ends in -/

/-- The error of a walk that produces `out` and finds no `END` within the capacity (R131, R133). -/
def walkError (dst : Option Buffer) (out : List Byte) : ErrorCode :=
  if ∀ d ∈ dst, out.length ≤ d.len then .malformedCompressedStream else .destinationTooSmall

theorem walkError_of_room (h : ∀ d ∈ dst, out.length ≤ d.len) : walkError dst out = .malformedCompressedStream := if_pos h

theorem walkError_of_noRoom (h : ¬ ∀ d ∈ dst, out.length ≤ d.len) : walkError dst out = .destinationTooSmall := if_neg h

theorem statusOf_walkError (dst : Option Buffer) (out : List Byte) :
    statusOf (walkError dst out) = 0x02 ∨ statusOf (walkError dst out) = 0x03 := by
  unfold walkError
  split
  · exact .inl rfl
  · exact .inr rfl

/-! ### A walk that follows the loop -/

/-- The walk with its cursor after a token that was read (R122). -/
def Walk.movedTo (w : Walk) (c : DecodeCursor) (out : List Byte) : Walk :=
  { w with dc := { c with dstPos := out.length } }

/-- The walk `w` in progress stands where the loop on lists stands at cursor `c` with output `out`; `m0` is the memory at its
start. -/
structure DecodesAt (m0 : Memory) (s : State) (w : Walk) (c : DecodeCursor) (out : List Byte) : Prop where
  job : s.job = some (.decode w)
  valid : w.valid s.cfg = true
  cursor : w.dc = { c with dstPos := out.length }
  inSource : c.srcPos ≤ w.src.len
  apart : ∀ d ∈ w.dst, w.src.overlaps d = false
  room : ∀ d ∈ w.dst, out.length ≤ d.len
  delivers : Delivers w.dst out m0 s.mem

theorem prsError_withJob (s : State) (j : Option Job) (dst : Option Buffer) (err : ErrorCode) :
    (s.withJob j).prsError dst err = s.prsError dst err := by
  cases dst <;> rfl

namespace DecodesAt

theorem dstPos (h : DecodesAt m0 s w c out) : w.dc.dstPos = out.length := by rw [h.cursor]

/-- The walk reads the stream that was there at its start (R58). -/
theorem source (h : DecodesAt m0 s w c out) : w.source s.mem = w.source m0 := h.delivers.source h.apart h.room

theorem decodeToken_ok (h : DecodesAt m0 s w c out) (hd : decodeToken (w.source m0) c = .ok (i, c')) :
    decodeToken (w.source s.mem) w.dc = .ok (i, { c' with dstPos := out.length }) := by
  rw [h.source, h.cursor]
  exact decodeToken_withDstPos hd _

theorem decodeToken_error (h : DecodesAt m0 s w c out) {e : DecodeError} (hd : decodeToken (w.source m0) c = .error e) :
    ∃ e', decodeToken (w.source s.mem) w.dc = .error e' := by
  cases hw : decodeToken (w.source s.mem) w.dc with
  | error e' => exact ⟨e', rfl⟩
  | ok p =>
    rw [h.source, h.cursor] at hw
    have hback := decodeToken_withDstPos hw c.dstPos
    rw [hd] at hback
    cases hback

/-- A token read moves both cursors past it (R122). -/
theorem fetched (h : DecodesAt m0 s w c out) (hd : decodeToken (w.source m0) c = .ok (i, c')) :
    DecodesAt m0 (s.withJob (some (.decode (w.movedTo c' out)))) (w.movedTo c' out) c' out :=
  ⟨rfl, h.valid, rfl, (decodeToken_srcPos (w.source_none m0) hd).2, h.apart, h.room, h.delivers⟩

/-- The round runs the token that the loop reads (R122). -/
theorem walkStep_of_runToken (h : DecodesAt m0 s w c out) (hd : decodeToken (w.source m0) c = .ok (i, c')) {t : State}
    (hrun : runToken i (s.withJob (some (.decode (w.movedTo c' out)))) = .next t) : walkStep s = .next t :=
  walkStep_of_decodeToken h.job h.valid (h.decodeToken_ok hd) hrun

/-- A token whose output fits takes the walk to where it takes the loop (R123-R126). -/
theorem runToken_append (h : DecodesAt m0 s w c out) (hne : i ≠ .endStream) (htoken : i.isToken = true)
    (happ : appendToken i out = some out') (hroom : ∀ d ∈ w.dst, out'.length ≤ d.len) :
    ∃ m, runToken i s = .next ((s.withMem m).withJob (some (.decode (w.withOutput out')))) ∧
      DecodesAt m0 ((s.withMem m).withJob (some (.decode (w.withOutput out')))) (w.withOutput out') c out' := by
  obtain ⟨m, hrun, hdel⟩ := runToken_delivers h.job h.valid h.dstPos hne htoken happ hroom h.delivers
  refine ⟨m, hrun, rfl, h.valid, ?_, h.inSource, h.apart, hroom, hdel⟩
  rw [Walk.withOutput, h.cursor]

/-- A token whose output does not fit raises `DestinationTooSmall` (R133). -/
theorem runToken_noRoom (h : DecodesAt m0 s w c out) (hne : i ≠ .endStream) (htoken : i.isToken = true)
    (happ : appendToken i out = some out') (hpast : ¬ ∀ d ∈ w.dst, out'.length ≤ d.len) :
    runToken i s = .next (s.prsError w.dst .destinationTooSmall) := by
  have noRoom {n : Nat} (hlen : out'.length = out.length + n) : w.hasRoom n = false := by
    rw [← Bool.not_eq_true, Walk.hasRoom_iff, h.dstPos, ← hlen]
    exact hpast
  rw [← exec_of_isToken htoken]
  obtain ⟨b, rfl, rfl⟩ | ⟨dist, len, hcopy, hstart, rfl⟩ := appendToken_cases hne happ
  · exact (exec_output h.job h.valid (.inl ⟨b, rfl, rfl⟩)).1 (noRoom (by simp))
  · rw [← h.dstPos] at hstart
    exact (exec_output h.job h.valid (.inr ⟨dist, hcopy, hstart⟩)).1 (noRoom (appendCopy_length ..))

/-- A token that appends nothing raises `MalformedCompressedStream` (R131). -/
theorem runToken_beforeStart (h : DecodesAt m0 s w c out) (htoken : i.isToken = true) (happ : appendToken i out = none) :
    runToken i s = .next (s.prsError w.dst .malformedCompressedStream) := by
  obtain ⟨dist, len, hcopy, hstart⟩ := copy_of_appendToken_none htoken happ
  rw [← h.dstPos] at hstart
  rw [← exec_of_isToken htoken, exec_copy hcopy]
  exact copyToken_beforeStart h.job h.valid hstart

/-- An error here leaves the state at the walk's start changed in the destination and the outcome only (R203). -/
theorem prsError_endsInError (h : DecodesAt m0 s w c out) (err : ErrorCode) :
    endsInError (statusOf err) w.dst (s.withMem m0) (s.prsError w.dst err) := by
  refine prsError_endsInError_of_frame (s := s.withMem m0) err (fun d hd a ha => ?_) h.delivers.probe
  have hroom := h.room d hd
  refine h.delivers.frame d hd a ?_
  simp only [Buffer.covers, Buffer.stop] at ha ⊢
  omega

/-- A round that ends in an error ends the walk in it. -/
theorem runWalk_of_prsError (h : DecodesAt m0 s w c out) {fuel : Nat} {err : ErrorCode}
    (hstep : walkStep s = .next (s.prsError w.dst err)) :
    ∃ t, runWalk (fuel + 1) s = .next t ∧ endsInError (statusOf err) w.dst (s.withMem m0) t :=
  ⟨_, runWalk_next.2 ⟨_, hstep, .inl ⟨rfl, rfl⟩⟩, h.prsError_endsInError err⟩

/-- The same, where the token of the round raises the error. -/
theorem runWalk_of_token_prsError (h : DecodesAt m0 s w c out) (hd : decodeToken (w.source m0) c = .ok (i, c'))
    {fuel : Nat} {err : ErrorCode} (hrun : runToken i (s.withJob (some (.decode (w.movedTo c' out)))) =
      .next ((s.withJob (some (.decode (w.movedTo c' out)))).prsError w.dst err)) :
    ∃ t, runWalk (fuel + 1) s = .next t ∧ endsInError (statusOf err) w.dst (s.withMem m0) t := by
  rw [prsError_withJob] at hrun
  exact h.runWalk_of_prsError (h.walkStep_of_runToken hd hrun)

end DecodesAt

/-! ### The whole walk -/

/-- A walk whose loop gives no payload that fits ends in the error of what the loop produces. -/
theorem runWalk_fails {fuel : Nat} (h : DecodesAt m0 s w c out) (hfuel : w.src.len < c.srcPos + fuel)
    (hp : ∀ final, payloadLoop (w.source m0) fuel c out = some final → ¬ ∀ d ∈ w.dst, final.length ≤ d.len) :
    ∃ t, runWalk fuel s = .next t ∧
      endsInError (statusOf (walkError w.dst (producedLoop (w.source m0) fuel c out))) w.dst (s.withMem m0) t := by
  induction fuel generalizing s w c out with
  | zero =>
    have hin := h.inSource
    omega
  | succ fuel ih =>
    cases hd : decodeToken (w.source m0) c with
    | error e =>
      obtain ⟨e', he⟩ := h.decodeToken_error hd
      rw [producedLoop_error hd, walkError_of_room h.room]
      exact h.runWalk_of_prsError (walkStep_exhausted h.job h.valid he)
    | ok p =>
      obtain ⟨i, c'⟩ := p
      have htoken := isToken_of_decodeToken hd
      by_cases hend : i = .endStream
      · exact absurd h.room (hp out (payloadLoop_succ.2 ⟨i, c', hd, .inl ⟨hend, rfl⟩⟩))
      · cases happ : appendToken i out with
        | none =>
          rw [producedLoop_none hd hend happ, walkError_of_room h.room]
          exact h.runWalk_of_token_prsError hd ((h.fetched hd).runToken_beforeStart htoken happ)
        | some out' =>
          rw [producedLoop_some hd hend happ]
          by_cases hroom : ∀ d ∈ w.dst, out'.length ≤ d.len
          · obtain ⟨m, hrun, hnext⟩ := (h.fetched hd).runToken_append hend htoken happ hroom
            have hlt := (decodeToken_srcPos (w.source_none m0) hd).1
            have hlen : w.src.len < c'.srcPos + fuel := by omega
            obtain ⟨t, hwalk, ht⟩ := ih hnext hlen fun final hfinal =>
              hp final (payloadLoop_succ.2 ⟨i, c', hd, .inr ⟨hend, out', happ, hfinal⟩⟩)
            exact ⟨t, runWalk_next.2 ⟨_, h.walkStep_of_runToken hd hrun, .inr ⟨by simp, hwalk⟩⟩, ht⟩
          · rw [walkError_of_noRoom fun hall => hroom fun d hd =>
              (length_le_producedLoop _ fuel c' out').trans (hall d hd)]
            exact h.runWalk_of_token_prsError hd ((h.fetched hd).runToken_noRoom hend htoken happ hroom)

/-- The body of `PRS.DECOMPRESS` and `PRS.SIZE` on a stream without a payload that fits (R140, R141). -/
theorem runDecode_fails {src : Buffer} (hv : (Walk.start src dst).valid s.cfg = true) (hmem : ∀ d ∈ dst, s.mem.wf)
    (hsep : ∀ d ∈ dst, src.overlaps d = false)
    (hp : ∀ final, payload (src.bytes s.mem) = some final → ¬ ∀ d ∈ dst, final.length ≤ d.len) :
    ∃ t, runDecode src dst s = .next t ∧
      endsInError (statusOf (walkError dst (produced (src.bytes s.mem)))) dst s t := by
  have hstart : DecodesAt s.mem (s.withJob (some (.decode (Walk.start src dst)))) (Walk.start src dst)
      DecodeCursor.start [] :=
    ⟨rfl, hv, rfl, Nat.zero_le _, hsep, fun _ _ => Nat.zero_le _, Delivers.nil hmem⟩
  have hlen : (src.bytes s.mem).length = src.len := Memory.readBytes_length ..
  simp only [payload, produced, hlen] at hp ⊢
  have hsource : (Walk.start src dst).source s.mem = byteSource (src.bytes s.mem) := Walk.source_eq _ _
  rw [← hsource] at hp ⊢
  exact runWalk_fails hstart (by simp [Walk.start, DecodeCursor.start]) hp

end Sys2Proof.Machine
end

section
/-! SUPPORT. `PRS.DECOMPRESS` and `PRS.SIZE` against the payload of their stream (41_prs_decompressor.md R134-R142). -/

namespace Sys2Proof.Machine

variable {s : State} {sb sl db dc : Word}

theorem Walk.start_valid {cfg : Config} {src : Buffer} {dst : Option Buffer} (hsrc : src.valid cfg = true)
    (hdst : ∀ d ∈ dst, d.valid cfg = true) : (Walk.start src dst).valid cfg = true := by
  cases dst with
  | none => simpa [Walk.valid, Walk.start] using hsrc
  | some d => simp [Walk.valid, Walk.start, hsrc, hdst d rfl]

/-! ### The commands, by whether there is a payload that fits -/

theorem execPrsDecompress_delivers (hacc : prsAccepted s sb sl db dc) (hmem : s.mem.wf) {out : List Byte}
    (hp : payload ((bufferOf sb sl).bytes s.mem) = some out) (hroom : out.length ≤ dc.toNat) :
    ∃ m, exec (.prsDecompress 0 0 sb sl db dc) s = .next ((s.withMem m).prsOk out.length) ∧
      Delivers (some (bufferOf db dc)) out s.mem m := by
  obtain ⟨hsrc, hdst, hsep⟩ := id hacc
  obtain ⟨m, hrun, hdel⟩ := runDecode_delivers (dst := some (bufferOf db dc))
    (Walk.start_valid hsrc (by rintro d ⟨⟩; exact hdst)) (fun _ _ => hmem) (by rintro d ⟨⟩; exact hsep) hp
    (by rintro d ⟨⟩; exact hroom)
  exact ⟨m, (execPrsDecompress_accepted hacc).trans hrun, hdel⟩

theorem execPrsSize_reports (hacc : sizeAccepted s sb sl) {out : List Byte}
    (hp : payload ((bufferOf sb sl).bytes s.mem) = some out) :
    exec (.prsSize 0 0 sb sl) s = .next (s.prsOk out.length) := by
  obtain ⟨m, hrun, hdel⟩ := runDecode_delivers (dst := none) (Walk.start_valid hacc nofun) nofun nofun hp nofun
  obtain rfl : m = s.mem := hdel.probe rfl
  exact (execPrsSize_accepted hacc).trans hrun

/-- The decompressor without a payload that fits: the output alone decides the error (R131, R133). -/
theorem execPrsDecompress_fails (hacc : prsAccepted s sb sl db dc) (hmem : s.mem.wf)
    (hp : ∀ out, payload ((bufferOf sb sl).bytes s.mem) = some out → dc.toNat < out.length) :
    ∃ t, exec (.prsDecompress 0 0 sb sl db dc) s = .next t ∧
      endsInError (statusOf (walkError (some (bufferOf db dc)) (produced ((bufferOf sb sl).bytes s.mem))))
        (some (bufferOf db dc)) s t := by
  obtain ⟨hsrc, hdst, hsep⟩ := id hacc
  obtain ⟨t, hrun, ht⟩ := runDecode_fails (dst := some (bufferOf db dc))
    (Walk.start_valid hsrc (by rintro d ⟨⟩; exact hdst)) (fun _ _ => hmem) (by rintro d ⟨⟩; exact hsep)
    fun out hout hroom => Nat.not_le.2 (hp out hout) (hroom _ rfl)
  exact ⟨t, (execPrsDecompress_accepted hacc).trans hrun, ht⟩

theorem execPrsSize_fails (hacc : sizeAccepted s sb sl) (hp : payload ((bufferOf sb sl).bytes s.mem) = none) :
    ∃ t, exec (.prsSize 0 0 sb sl) s = .next t ∧ endsInError 0x02 none s t := by
  obtain ⟨t, hrun, ht⟩ := runDecode_fails (dst := none) (Walk.start_valid hacc nofun) nofun nofun (by simp [hp])
  rw [walkError_of_room (by rintro d ⟨⟩)] at ht
  exact ⟨t, (execPrsSize_accepted hacc).trans hrun, ht⟩

/-! ### The obligations on the commands -/

/-- Settles O18: the walk delivers the payload, whose length fits `RESULT` since it fits the capacity. -/
theorem decompressWritesPayload : Obligations.DecompressWritesPayload := by
  intro s sb sl db dc out hacc hmem hp hroom
  obtain ⟨m, hexec, hdel⟩ := execPrsDecompress_delivers hacc hmem hp hroom
  obtain ⟨hresult, hfree⟩ := prsOk_of_lt (s.withMem m) (hroom.trans_lt dc.isLt)
  exact ⟨_, hexec, rfl, hresult, (hdel.holds _ rfl).bytes, hdel.frame _ rfl, rfl, rfl, rfl, rfl, hfree⟩

/-- Settles O19: the error is that of what the stream produces, and a payload is what it produces. -/
theorem decompressFailsWithoutPayload : Obligations.DecompressFailsWithoutPayload := by
  intro s sb sl db dc hacc hmem
  obtain ⟨hbound, hpayload⟩ := payloadLengthBound ((bufferOf sb sl).bytes s.mem)
  have hlen : ((bufferOf sb sl).bytes s.mem).length = sl.toNat := Memory.readBytes_length ..
  have fails := execPrsDecompress_fails hacc hmem
  have malformed (hfit : (produced ((bufferOf sb sl).bytes s.mem)).length ≤ dc.toNat) :=
    walkError_of_room (dst := some (bufferOf db dc)) (by rintro d ⟨⟩; exact hfit)
  have tooSmall (hpast : dc.toNat < (produced ((bufferOf sb sl).bytes s.mem)).length) :=
    walkError_of_noRoom (dst := some (bufferOf db dc)) fun hroom => Nat.not_le.2 hpast (hroom _ rfl)
  refine ⟨fun out hp hpast => ?_, fun hp => ⟨fun hfit => ?_, fun hpast => ?_, fun hcap => ?_⟩⟩
  · obtain ⟨rfl, -⟩ := hpayload out hp
    rw [tooSmall hpast] at fails
    exact fails (by rintro out' h; cases hp.symm.trans h; exact hpast)
  · rw [malformed hfit] at fails
    exact fails (by simp [hp])
  · rw [tooSmall hpast] at fails
    exact fails (by simp [hp])
  · rw [malformed (by omega)] at fails
    exact fails (by simp [hp])

/-- Settles O20: the walk of the probe delivers the payload to no destination, or ends in its error. -/
theorem sizeReportsPayloadLength : Obligations.SizeReportsPayloadLength := by
  intro s sb sl hacc
  exact ⟨fun out hp => ⟨_, execPrsSize_reports hacc hp, rfl, rfl, rfl, rfl, rfl, rfl, prsOk_of_lt s⟩,
    execPrsSize_fails hacc⟩

/-- Settles O21: both commands are told apart by the payload, whose length fits `RESULT`. -/
theorem probeAgreesWithDecompressor : Obligations.ProbeAgreesWithDecompressor := by
  intro s sb sl db dc hacc hmem hsl
  obtain ⟨reports, probeFails⟩ := sizeReportsPayloadLength s sb sl hacc.1
  obtain ⟨tooSmall, -⟩ := decompressFailsWithoutPayload s sb sl db dc hacc hmem
  cases hp : payload ((bufferOf sb sl).bytes s.mem) with
  | none =>
    obtain ⟨p, hsize, hpst, -⟩ := probeFails hp
    obtain ⟨t, hexec, htst, -⟩ := execPrsDecompress_fails hacc hmem (by simp [hp])
    have hst := statusOf_walkError (some (bufferOf db dc)) (produced ((bufferOf sb sl).bytes s.mem))
    rw [← htst] at hst
    have hfailed : t.status ≠ 0x00 := by obtain hst | hst := hst <;> rw [hst] <;> decide
    have hprobe : p.status ≠ 0x00 := by rw [hpst]; decide
    exact ⟨t, p, hexec, hsize, fun m => iff_of_false (fun h => hfailed h.1) fun h => hprobe h.1, fun _ => hst⟩
  | some out =>
    have hbound := ((payloadLengthBound _).2 out hp).2
    have hlen : ((bufferOf sb sl).bytes s.mem).length = sl.toNat := Memory.readBytes_length ..
    have hfits : out.length < 2 ^ 32 := by omega
    obtain ⟨p, hsize, hpst, -, -, -, -, -, hpres⟩ := reports out hp
    obtain ⟨hpres, -⟩ := hpres hfits
    have hword : (BitVec.ofNat 32 out.length).toNat = out.length := by
      rw [BitVec.toNat_ofNat, Nat.mod_eq_of_lt hfits]
    have hprobe : p.status ≠ 0x02 := by rw [hpst]; decide
    by_cases hroom : out.length ≤ dc.toNat
    · obtain ⟨t, hexec, hst, hres, -⟩ := decompressWritesPayload s sb sl db dc out hacc hmem hp hroom
      refine ⟨t, p, hexec, hsize, fun m => ?_, fun h => absurd h hprobe⟩
      rw [hst, hres, hpst, hpres]
      refine and_congr_right fun _ => ⟨?_, fun h => h.1⟩
      rintro rfl
      exact ⟨rfl, hword.le.trans hroom⟩
    · obtain ⟨t, hexec, hst, -⟩ := tooSmall out hp (Nat.not_le.1 hroom)
      have hfailed : t.status ≠ 0x00 := by rw [hst]; decide
      refine ⟨t, p, hexec, hsize, fun m => iff_of_false (fun h => hfailed h.1) ?_, fun h => absurd h hprobe⟩
      rintro ⟨-, rfl, hle⟩
      rw [hpres, hword] at hle
      exact hroom hle

end Sys2Proof.Machine
end

section
/-! SUPPORT. Every command ends (41_prs_decompressor.md R134; 70_reset_and_hazards.md R239): each round of a decode walk has a
next state and moves the cursor up in the source, so `srcLen + 1` rounds end the walk; the other commands are one outcome. -/

namespace Sys2Proof.Machine

variable {s t : State} {w w' : Walk} {i : Instr}

/-! ### The walk -/

theorem copyToken_total (hj : s.job = some (.decode w)) (hv : w.valid s.cfg = true) (dist : Int) (len : Nat) :
    ∃ t, copyToken dist len s = .next t := by
  obtain hstart | hstart := lt_or_ge ((w.dc.dstPos : Int) + dist) 0
  · exact ⟨_, copyToken_beforeStart hj hv hstart⟩
  · cases hroom : w.hasRoom len with
    | true => exact ⟨_, copyToken_room hj hv hstart hroom⟩
    | false => exact ⟨_, copyToken_noRoom hj hv hstart hroom⟩

theorem runToken_total (htoken : i.isToken = true) (hj : s.job = some (.decode w)) (hv : w.valid s.cfg = true) :
    ∃ t, runToken i s = .next t := by
  cases i with
  | endStream => exact ⟨_, execEndStream_next.2 ⟨w, hj, hv, rfl⟩⟩
  | lcopyt | lcopyh | scopy => exact copyToken_total hj hv _ _
  | lit b =>
    cases hroom : w.hasRoom 1 with
    | true => exact ⟨_, execLit_room hj hv hroom b⟩
    | false => exact ⟨_, execLit_noRoom hj hv hroom b⟩
  | prsCompress | prsDecompress | prsSize | cipherCreateKeys | cipherCrypt | cipherNextWord | cipherRelease => cases htoken

theorem walkStep_total (hj : s.job = some (.decode w)) (hv : w.valid s.cfg = true) : ∃ t, walkStep s = .next t := by
  cases hd : decodeToken (w.source s.mem) w.dc with
  | error e => exact ⟨_, walkStep_exhausted hj hv hd⟩
  | ok p =>
    obtain ⟨i, dc⟩ := p
    obtain ⟨t, ht⟩ := runToken_total (s := s.withJob (some (.decode { w with dc := dc })))
      (isToken_of_decodeToken hd) rfl hv
    exact ⟨t, walkStep_of_decodeToken hj hv hd ht⟩

/-- A round keeps the buffers of the walk, so they stay valid (R50). -/
theorem walkStep_valid (hj : s.job = some (.decode w)) (hv : w.valid s.cfg = true) (h : walkStep s = .next t)
    (hj' : t.job = some (.decode w')) : w'.valid t.cfg = true := by
  rw [(walkStep_keeps h).1]
  obtain ⟨w0, hj0, rfl | ⟨i, dc, -, ht⟩⟩ := walkStep_outcome h
  · cases hj'
  · cases hj.symm.trans hj0
    obtain hn | ⟨k, hk⟩ := ht.job
    · cases hn.symm.trans hj'
    · cases hk.symm.trans hj'
      exact hv

/-- A walk with more rounds than bytes to read ends (R134). -/
theorem runWalk_total {fuel : Nat} (hj : s.job = some (.decode w)) (hv : w.valid s.cfg = true)
    (hle : w.dc.srcPos ≤ w.src.len) (hfuel : w.src.len < w.dc.srcPos + fuel) : ∃ t, runWalk fuel s = .next t := by
  induction fuel generalizing s w with
  | zero => omega
  | succ fuel ih =>
    obtain ⟨u, hu⟩ := walkStep_total hj hv
    obtain hn | ⟨w', hj', hsrc, hlt, hle'⟩ := walkStep_job hj hu
    · exact ⟨u, runWalk_next.2 ⟨u, hu, .inl ⟨hn, rfl⟩⟩⟩
    · rw [← hsrc] at hle' hfuel
      obtain ⟨t, ht⟩ := ih hj' (walkStep_valid hj hv hu hj') hle' (by omega)
      exact ⟨t, runWalk_next.2 ⟨u, hu, .inr ⟨by simp [hj'], ht⟩⟩⟩

theorem runDecode_total {src : Buffer} {dst : Option Buffer} (hv : (Walk.start src dst).valid s.cfg = true) :
    ∃ t, runDecode src dst s = .next t :=
  runWalk_total (w := Walk.start src dst) rfl hv (Nat.zero_le _) (by simp [Walk.start, DecodeCursor.start])

/-! ### The commands -/

/-- The outcome of a command that ends: a next state, or a refusal of the command itself (R201), not of a token. -/
def CommandEnds (r : Result) : Prop := (∃ t, r = .next t) ∨ ∃ q, r = .refused q ∧ q ≠ .noDecodeInProgress

theorem CommandEnds.next (t : State) : CommandEnds (.next t) := .inl ⟨t, rfl⟩

theorem CommandEnds.refused {q : Refusal} (h : q ≠ .noDecodeInProgress) : CommandEnds (.refused q) := .inr ⟨q, rfl, h⟩

theorem CommandEnds.onPrsFields {var : Byte} {slot : Half} {r : Result} (h : CommandEnds r) :
    CommandEnds (onPrsFields var slot r) := by
  unfold Machine.onPrsFields
  split
  · exact .refused nofun
  · exact h

theorem CommandEnds.onSlot {slot : Half} {f : Nat → Context → Result} (h : ∀ k ctx, CommandEnds (f k ctx)) :
    CommandEnds (onSlot slot s f) := by
  unfold Machine.onSlot
  split
  · exact .refused nofun
  · exact h _ _

theorem CommandEnds.onCipherSlot {var : Byte} {slot : Half} {f : Nat → Context → Result}
    (h : ∀ k ctx, CommandEnds (f k ctx)) : CommandEnds (onCipherSlot var slot s f) := by
  refine CommandEnds.onSlot fun k ctx => ?_
  split
  · exact .refused nofun
  · exact h k ctx

theorem execPrsCompress_ends (var : Byte) (slot : Half) (sb sl db dc : Word) (s : State) :
    CommandEnds (execPrsCompress var slot sb sl db dc s) := by
  refine CommandEnds.onPrsFields ?_
  dsimp only
  split_ifs
  · exact .refused nofun
  · exact .refused nofun
  · exact .next _

theorem execPrsDecompress_ends (var : Byte) (slot : Half) (sb sl db dc : Word) (s : State) :
    CommandEnds (execPrsDecompress var slot sb sl db dc s) := by
  refine CommandEnds.onPrsFields ?_
  dsimp only
  split_ifs with hvalid hsep
  · exact .refused nofun
  · exact .refused nofun
  · rw [not_or, not_not, not_not] at hvalid
    obtain ⟨hsrc, hdst⟩ := hvalid
    exact .inl (runDecode_total (Walk.start_valid hsrc (by rintro d ⟨⟩; exact hdst)))

theorem execPrsSize_ends (var : Byte) (slot : Half) (sb sl : Word) (s : State) :
    CommandEnds (execPrsSize var slot sb sl s) := by
  refine CommandEnds.onPrsFields ?_
  dsimp only
  split_ifs with hvalid
  · exact .inl (runDecode_total (Walk.start_valid hvalid nofun))
  · exact .refused nofun

theorem execCipherCreateKeys_ends (var : Byte) (slot : Half) (seed : Word) (s : State) :
    CommandEnds (execCipherCreateKeys var slot seed s) := by
  refine CommandEnds.onSlot fun k ctx => ?_
  cases variantTag var with
  | pc | gc | unknown => exact .next _
  | blueBurst => exact .refused nofun

theorem execCipherCrypt_ends (var : Byte) (slot : Half) (bb bl flags : Word) (s : State) :
    CommandEnds (execCipherCrypt var slot bb bl flags s) := by
  refine CommandEnds.onCipherSlot fun k ctx => ?_
  dsimp only
  split_ifs
  · exact .refused nofun
  · exact .refused nofun
  · cases ctx.variant <;> exact .next _
  · exact .refused nofun

theorem execCipherNextWord_ends (var : Byte) (slot : Half) (s : State) : CommandEnds (execCipherNextWord var slot s) := by
  refine CommandEnds.onCipherSlot fun k ctx => ?_
  cases ctx.variant <;> exact .next _

theorem execCipherRelease_ends (var : Byte) (slot : Half) (s : State) : CommandEnds (execCipherRelease var slot s) :=
  CommandEnds.onCipherSlot fun _ _ => .next _

theorem exec_ends (h : i.isToken = false) (s : State) : CommandEnds (exec i s) := by
  cases i with
  | endStream | lcopyt | lcopyh | scopy | lit => cases h
  | prsCompress => exact execPrsCompress_ends ..
  | prsDecompress => exact execPrsDecompress_ends ..
  | prsSize => exact execPrsSize_ends ..
  | cipherCreateKeys => exact execCipherCreateKeys_ends ..
  | cipherCrypt => exact execCipherCrypt_ends ..
  | cipherNextWord => exact execCipherNextWord_ends ..
  | cipherRelease => exact execCipherRelease_ends ..

/-- The port gives commands only (R84). -/
theorem commandStep_ends (s : State) : CommandEnds (commandStepWith exec s) := by
  unfold commandStepWith
  cases hfetch : fetchCommand s with
  | idle => exact .next s
  | command i s' =>
    obtain ⟨rest, hd, -⟩ := fetchCommand_command.1 hfetch
    exact exec_ends (commandWordsReadBack _ _ _ hd).1 s'
  | unassigned => exact .refused nofun

/-- Settles O57: with no command in progress the step is the next command of the port, which ends. -/
theorem commandsAlwaysEnd : Obligations.CommandsAlwaysEnd := by
  intro s hjob
  rw [step_of_idle hjob]
  obtain ⟨t, ht⟩ | ⟨q, hq, hne⟩ := commandStep_ends s
  · rw [ht]
    exact ⟨nofun, nofun⟩
  · rw [hq]
    refine ⟨nofun, ?_⟩
    rintro ⟨⟩
    exact hne rfl

end Sys2Proof.Machine
end

section
/-! SUPPORT. The draw of each variant (42_cipher_pc.md R156; 43_cipher_gc.md R178), the context that key setup makes,
and what the cipher commands do with them (44_facade.md R191-R195). -/

namespace Sys2Proof.Machine

variable {c : Context}

/-! ### One draw -/

theorem drawWord_of_pc (h : c.variant = .pc) : drawWord c = pcNextWord c := by
  rw [drawWord, h]

theorem drawWord_of_gc (h : c.variant = .gc) : drawWord c = gcNextWord c := by
  rw [drawWord, h]

theorem pcNextWord_before_end (h : c.cursor ≠ pcCursorEnd) :
    pcNextWord c = (ringGet c.pcRing c.cursor, { c with cursor := c.cursor + 1 }) := by
  simp only [pcNextWord, pcRefill, if_neg h]

theorem pcNextWord_at_end (h : c.cursor = pcCursorEnd) :
    pcNextWord c = (ringGet (pcMix c.pcRing) 1, { c with pcRing := pcMix c.pcRing, cursor := 2 }) := by
  simp only [pcNextWord, pcRefill, if_pos h]

theorem gcNextWord_before_end (h : c.cursor + 1 ≠ gcRingWords) :
    gcNextWord c = (ringGet c.gcRing (c.cursor + 1), { c with cursor := c.cursor + 1 }) := by
  simp only [gcNextWord, gcAdvance, if_neg h]

theorem gcNextWord_at_end (h : c.cursor + 1 = gcRingWords) :
    gcNextWord c = (ringGet (gcMixRing c.gcRing) 0, { c with gcRing := gcMixRing c.gcRing, cursor := 0 }) := by
  simp only [gcNextWord, gcAdvance, if_pos h, gcMix]

theorem pcNextWord_variant (c : Context) : (pcNextWord c).2.variant = c.variant :=
  (pcRefill_other_fields c).1

theorem gcNextWord_variant (c : Context) : (gcNextWord c).2.variant = c.variant :=
  (gcAdvance_other_fields c).1

@[simp] theorem drawWord_variant (c : Context) : (drawWord c).2.variant = c.variant := by
  unfold drawWord
  cases hv : c.variant with
  | none => exact hv
  | pc => exact (pcNextWord_variant c).trans hv
  | gc => exact (gcNextWord_variant c).trans hv

/-! ### Several draws -/

@[simp] theorem afterDraws_zero (c : Context) : afterDraws 0 c = c := rfl

theorem afterDraws_succ (k : Nat) (c : Context) : afterDraws (k + 1) c = afterDraws k (drawWord c).2 := rfl

/-- The last draw of `k + 1` comes after the first `k`. -/
theorem afterDraws_succ_last (k : Nat) (c : Context) : afterDraws (k + 1) c = (drawWord (afterDraws k c)).2 := by
  induction k generalizing c with
  | zero => rfl
  | succ k ih => rw [afterDraws_succ, ih, ← afterDraws_succ]

@[simp] theorem afterDraws_variant (k : Nat) (c : Context) : (afterDraws k c).variant = c.variant := by
  induction k generalizing c with
  | zero => rfl
  | succ k ih => rw [afterDraws_succ, ih, drawWord_variant]

/-! ### The keyed context -/

@[simp] theorem keyedContext_variant (cfg : Config) {v : Variant} (hv : v ≠ .none) (seed : Word) (c : Context) :
    (keyedContext cfg v seed c).variant = v := by
  cases v with
  | none => exact absurd rfl hv
  | pc => rfl
  | gc => rw [keyedContext, gcCreateKeys_eq]

theorem pcCreateKeys_ends_at (cfg : Config) (seed : Word) (c : Context) :
    (pcCreateKeys cfg seed c).cursor = 55 ∧ (pcCreateKeys cfg seed c).pcRing.length = 56 := by
  simp only [pcCreateKeys, pcKeyedRing_length, pcRingWords, pcCursorEnd, and_self]

theorem gcCreateKeys_ends_at (cfg : Config) (seed : Word) (c : Context) :
    (gcCreateKeys cfg seed c).cursor = 520 ∧ (gcCreateKeys cfg seed c).gcRing.length = 521 ∧
      (gcCreateKeys cfg seed c).seed0 = seed := by
  simp only [gcCreateKeys_eq, repeated_length gcMixRing_length, gcInitRing_length, gcRingWords, gcInitCursor, and_self]

/-! ### The commands -/

variable {s : State} {slot : Half}

@[simp] theorem State.afterCrypt_mem (s : State) (k : Nat) (d : Memory × Context) : (s.afterCrypt k d).mem = d.1 := rfl
@[simp] theorem State.afterDraw_result (s : State) (k : Nat) (d : Word × Context) :
    (s.afterDraw k d).result = d.1 := rfl

/-- What `CREATE_KEYS` leaves: the keyed context in its slot (R191). -/
def State.afterKeys (s : State) (slot : Half) (v : Variant) (seed : Word) (c : Context) : State :=
  (s.withSlot slot.toNat (keyedContext s.cfg v seed c)).finishOk 0

@[simp] theorem State.afterKeys_slots (s : State) (slot : Half) (v : Variant) (seed : Word) (c : Context) :
    (s.afterKeys slot v seed c).slots = s.slots.set slot.toNat (keyedContext s.cfg v seed c) := rfl

theorem exec_createKeys_keyed {v : Variant} (hv : v ≠ .none) (h : s.slots[slot.toNat]? = some c) (seed : Word) :
    exec (.cipherCreateKeys (tagOf v) slot seed) s = .next (s.afterKeys slot v seed c) := by
  refine execCipherCreateKeys_next.2 ⟨c, h, ?_⟩
  cases v with
  | none => exact absurd rfl hv
  | pc => exact .inl ⟨variantTag_pc.2 rfl, rfl⟩
  | gc => exact .inr (.inl ⟨variantTag_gc.2 rfl, rfl⟩)

theorem exec_nextWord_keyed (h : s.slots[slot.toNat]? = some c) (hv : c.variant ≠ .none) :
    exec (.cipherNextWord 0 slot) s = .next (s.afterDraw slot.toNat (drawWord c)) := by
  refine execCipherNextWord_next.2 ⟨rfl, c, h, ?_⟩
  cases hvar : c.variant with
  | none => exact absurd hvar hv
  | pc => exact .inr (.inl ⟨rfl, by rw [drawWord_of_pc hvar]⟩)
  | gc => exact .inr (.inr ⟨rfl, by rw [drawWord_of_gc hvar]⟩)

/-- Settles O30: the slot takes the keyed context, whose fields key setup sets. -/
theorem createKeysKeysTheSlot : Obligations.CreateKeysKeysTheSlot := by
  intro s slot seed v ctx hv hslot
  refine ⟨_, _, exec_createKeys_keyed hv hslot seed, rfl, rfl, keyedContext_variant s.cfg hv seed ctx, ?_, ?_,
    rfl, rfl, rfl, rfl, rfl, rfl, rfl⟩
  · rintro rfl
    exact pcCreateKeys_ends_at s.cfg seed ctx
  · rintro rfl
    exact gcCreateKeys_ends_at s.cfg seed ctx

/-- Settles O32: the command is one draw, and the draw is the variant's, on either side of its cursor's end. -/
theorem nextWordDrawsOne : Obligations.NextWordDrawsOne := by
  intro s slot ctx hslot hv
  refine ⟨_, exec_nextWord_keyed hslot hv, rfl, rfl, rfl, rfl, rfl, ⟨rfl, rfl, rfl⟩, ?_, ?_, ?_, ?_⟩
  · intro hpc hcursor
    simp only [State.afterDraw_result, State.afterDraw_slots, drawWord_of_pc hpc,
      pcNextWord_before_end hcursor, and_self]
  · intro hpc hcursor
    simp only [State.afterDraw_result, State.afterDraw_slots, drawWord_of_pc hpc, pcNextWord_at_end hcursor, and_self]
  · intro hgc hcursor
    have hne : ctx.cursor + 1 ≠ gcRingWords := fun hend => hcursor (Nat.succ.inj hend)
    simp only [State.afterDraw_result, State.afterDraw_slots, drawWord_of_gc hgc, gcNextWord_before_end hne, and_self]
  · intro hgc hcursor
    have hend : ctx.cursor + 1 = gcRingWords := congrArg Nat.succ hcursor
    simp only [State.afterDraw_result, State.afterDraw_slots, drawWord_of_gc hgc, gcNextWord_at_end hend, and_self]

end Sys2Proof.Machine
end

section
/-! SUPPORT. The transform (42_cipher_pc.md R158; 43_cipher_gc.md R180): each word of the buffer is XORed with its
keystream word, and the draws run on from one buffer to the next. -/

namespace Sys2Proof.Machine

/-! ### Words of `HostMem` -/

theorem Memory.readWord_congr {m m' : Memory} {a : Nat} (h : ∀ k, k < 4 → m.read (a + k) = m'.read (a + k)) :
    m.readWord a = m'.readWord a := by
  have first : m.read a = m'.read a := h 0 (by omega)
  simp only [Memory.readWord, first, h 1 (by omega), h 2 (by omega), h 3 (by omega)]

theorem Memory.readWord_writeWord_outside (m : Memory) {a b : Nat} (w : Word) (h : b + 4 ≤ a ∨ a + 4 ≤ b) :
    (m.writeWord a w).readWord b = m.readWord b :=
  Memory.readWord_congr fun _ hk => Memory.writeWord_read_outside m a w (by omega)

/-- `bytesLE32` takes `LE32` apart again (R12). -/
theorem bytesLE32_le32 (b0 b1 b2 b3 : Byte) : bytesLE32 (le32 b0 b1 b2 b3) = [b0, b1, b2, b3] := by
  simp only [bytesLE32, le32, List.cons.injEq, and_true]
  refine ⟨?_, ?_, ?_, ?_⟩ <;> refine BitVec.eq_of_getLsbD_eq fun i hi => ?_ <;> simp <;> grind

/-- Equal words are equal bytes. -/
theorem Memory.read_of_readWord_eq {m m' : Memory} {a : Nat} (h : m.readWord a = m'.readWord a) {k : Nat} (hk : k < 4) :
    m.read (a + k) = m'.read (a + k) := by
  have bytes := congrArg bytesLE32 h
  simp only [Memory.readWord, bytesLE32_le32, List.cons.injEq, and_true] at bytes
  obtain ⟨h0, h1, h2, h3⟩ := bytes
  match k, hk with
  | 0, _ => exact h0
  | 1, _ => exact h1
  | 2, _ => exact h2
  | 3, _ => exact h3

/-- Memories with the same words in a buffer of `n` words, and the same bytes outside it, are the same. -/
theorem Memory.ext_of_words {m m' : Memory} (h : m.wf) (h' : m'.wf) (a n : Nat)
    (words : ∀ j, j < n → m.readWord (a + 4 * j) = m'.readWord (a + 4 * j))
    (outside : ∀ b, ¬ (a ≤ b ∧ b < a + 4 * n) → m.read b = m'.read b) : m = m' := by
  refine Memory.ext_of_read h h' fun b => ?_
  by_cases hb : a ≤ b ∧ b < a + 4 * n
  · have inside := Memory.read_of_readWord_eq (words ((b - a) / 4) (by omega)) (Nat.mod_lt (b - a) (by omega : 4 > 0))
    rwa [show a + 4 * ((b - a) / 4) + (b - a) % 4 = b by omega] at inside
  · exact outside b hb

/-! ### The transform with the draw of any variant -/

theorem transformWords_of_pc (n a : Nat) (m : Memory) {c : Context} (h : c.variant = .pc) :
    transformWords pcNextWord n a m c = transformWords drawWord n a m c := by
  induction n generalizing a m c with
  | zero => rfl
  | succ n ih => rw [transformWords, transformWords, drawWord_of_pc h, ih _ _ ((pcNextWord_variant c).trans h)]

theorem transformWords_of_gc (n a : Nat) (m : Memory) {c : Context} (h : c.variant = .gc) :
    transformWords gcNextWord n a m c = transformWords drawWord n a m c := by
  induction n generalizing a m c with
  | zero => rfl
  | succ n ih => rw [transformWords, transformWords, drawWord_of_gc h, ih _ _ ((gcNextWord_variant c).trans h)]

@[simp] theorem transformWords_drawWord_context (n a : Nat) (m : Memory) (c : Context) :
    (transformWords drawWord n a m c).2 = afterDraws n c := by
  induction n generalizing a m c with
  | zero => rfl
  | succ n ih => rw [transformWords, ih, afterDraws_succ]

/-- Word `j` of the buffer meets word `j` of the keystream. -/
theorem transformWords_drawWord_readWord (n a : Nat) {m : Memory} (h : m.wf) (c : Context) {j : Nat} (hj : j < n) :
    (transformWords drawWord n a m c).1.readWord (a + 4 * j) = m.readWord (a + 4 * j) ^^^ keystreamWord c j := by
  induction n generalizing a m c j with
  | zero => omega
  | succ n ih =>
    rw [transformWords]
    cases j with
    | zero =>
      rw [Memory.readWord_congr fun k hk => transformWords_read_outside drawWord n (a + 4) _ _ (by omega)]
      exact Memory.readWord_writeWord h a _
    | succ j =>
      rw [show a + 4 * (j + 1) = a + 4 + 4 * j by omega, ih (a + 4) (Memory.writeWord_wf h _ _) _ (by omega),
        Memory.readWord_writeWord_outside m _ (by omega), keystreamWord_succ]

/-- The keystream runs on: the second part of the buffer is transformed with the context the first part leaves. -/
theorem transformWords_add (next : Context → Word × Context) (n n' a : Nat) (m : Memory) (c : Context) :
    transformWords next (n + n') a m c =
      transformWords next n' (a + 4 * n) (transformWords next n a m c).1 (transformWords next n a m c).2 := by
  induction n generalizing a m c with
  | zero => rw [Nat.zero_add]; rfl
  | succ n ih =>
    rw [Nat.add_right_comm, transformWords, ih, transformWords, show a + 4 * (n + 1) = a + 4 + 4 * n by omega]

/-! ### The command -/

variable {s : State} {slot : Half} {bb bl flags : Word} {c : Context}

theorem exec_crypt_keyed (h : s.slots[slot.toNat]? = some c) (hv : c.variant ≠ .none)
    (hacc : cryptAccepted s slot bb bl flags) :
    exec (.cipherCrypt 0 slot bb bl flags) s =
      .next (s.afterCrypt slot.toNat (transformWords drawWord (bl.toNat / 4) bb.toNat s.mem c)) := by
  refine execCipherCrypt_next.2 ⟨rfl, hacc, c, h, ?_⟩
  cases hvar : c.variant with
  | none => exact absurd hvar hv
  | pc => exact .inr (.inl ⟨rfl, by rw [← transformWords_of_pc _ _ _ hvar]; rfl⟩)
  | gc => exact .inr (.inr ⟨rfl, by rw [← transformWords_of_gc _ _ _ hvar]; rfl⟩)

/-- Settles O31: the command is the transform with the slot's draws. -/
theorem cryptXorsKeystream : Obligations.CryptXorsKeystream := by
  intro s slot bb bl flags ctx hslot hv hacc hwf
  refine ⟨_, exec_crypt_keyed hslot hv hacc, fun j hj => transformWords_drawWord_readWord _ _ hwf ctx hj, ?_, ?_,
    rfl, rfl, rfl, rfl, rfl, rfl⟩
  · obtain ⟨-, -, -, hlen⟩ := hacc
    intro a ha
    have hbytes : 4 * (bl.toNat / 4) = bl.toNat := Nat.mul_div_cancel' (Nat.dvd_of_mod_eq_zero hlen)
    exact transformWords_read_outside drawWord _ _ _ _ (hbytes.symm ▸ ha)
  · rw [State.afterCrypt_slots, transformWords_drawWord_context]

/-- A part of a valid buffer is valid (R50). -/
theorem Buffer.valid_of_within {cfg : Config} {b p : Buffer} (h : b.valid cfg = true) (hlen : p.len ≤ b.len)
    (hstop : p.stop ≤ b.stop) : p.valid cfg = true := by
  simp only [Buffer.valid, Bool.and_eq_true, decide_eq_true_eq] at h ⊢
  exact ⟨hlen.trans h.1, hstop.trans h.2⟩

/-- Settles O50: the second command finds in the slot the context that the first leaves, and its buffer begins where the
first's ends. -/
theorem cryptContinuesKeystream : Obligations.CryptContinuesKeystream := by
  intro s slot ctx bb n1 n2 hslot hv hvalid hlen hbase hmod1 hmod2
  obtain ⟨hlt, -⟩ := List.getElem?_eq_some_iff.1 hslot
  have valid1 : (bufferOf bb n1).valid s.cfg = true :=
    Buffer.valid_of_within hvalid (by simp only [bufferOf]; omega) (by simp only [Buffer.stop, bufferOf]; omega)
  have valid2 : (bufferOf (bb + n1) n2).valid s.cfg = true :=
    Buffer.valid_of_within hvalid (by simp only [bufferOf]; omega) (by simp only [Buffer.stop, bufferOf]; omega)
  have first := exec_crypt_keyed hslot hv (flags := 0) ⟨hlt, rfl, valid1, hmod1⟩
  have whole := exec_crypt_keyed hslot hv (flags := 0) ⟨hlt, rfl, hvalid, by omega⟩
  refine ⟨_, _, first, exec_crypt_keyed (c := afterDraws (n1.toNat / 4) ctx) ?_ ?_ ⟨?_, rfl, valid2, hmod2⟩, ?_⟩
  · rw [State.afterCrypt_slots, transformWords_drawWord_context, List.getElem?_set_self hlt]
  · rwa [afterDraws_variant]
  · rwa [State.nCtx_eq, State.afterCrypt_slots, List.length_set]
  · have next_base : bb.toNat + 4 * (n1.toNat / 4) = (bb + n1).toNat := by omega
    rw [whole, hlen, show (n1.toNat + n2.toNat) / 4 = n1.toNat / 4 + n2.toNat / 4 by omega, transformWords_add,
      next_base, transformWords_drawWord_context, State.afterCrypt_mem]
    simp [State.afterCrypt, State.withSlot, State.withSlots, State.withMem, State.finishOk, State.withOutcome]

end Sys2Proof.Machine
end

section
/-! SUPPORT. The PC ring (42_cipher_pc.md R150-R156): the stores of the recurrence, an in-place pass over a ring, and
the slot that each draw returns. -/

namespace Sys2Proof.Machine

/-! ### The recurrence (R150) -/

/-- The recurrence after `n` stores. -/
def pcFillAfter (seed : Word) (n : Nat) : PcFill :=
  (List.range n).foldl pcRingStep { a := seed, b := seed, ring := List.replicate pcRingWords 0 }

theorem pcRingInit_eq (seed : Word) : pcRingInit seed = (pcFillAfter seed 55).ring := rfl

theorem pcFillAfter_zero (seed : Word) :
    pcFillAfter seed 0 = { a := seed, b := seed, ring := List.replicate pcRingWords 0 } := rfl

theorem pcFillAfter_succ (seed : Word) (n : Nat) :
    pcFillAfter seed (n + 1) = pcRingStep (pcFillAfter seed n) n := by
  simp only [pcFillAfter, List.range_succ, List.foldl_append, List.foldl_cons, List.foldl_nil]

theorem pcFillAfter_ring_length (seed : Word) (n : Nat) : (pcFillAfter seed n).ring.length = 56 := by
  rw [pcFillAfter, foldl_pcRingStep_length, List.length_replicate, pcRingWords]

/-- What store `i` puts into the ring. -/
def pcStore (seed : Word) (i : Nat) : Word := (pcFillAfter seed i).b

theorem pcStore_zero (seed : Word) : pcStore seed 0 = seed := rfl

theorem pcStore_one (seed : Word) : pcStore seed 1 = 0 := by
  rw [pcStore, pcFillAfter_succ, pcFillAfter_zero]
  exact sub_self seed

/-- Each store is the one two before it minus the one before it. -/
theorem pcStore_add_two (seed : Word) (i : Nat) : pcStore seed (i + 2) = pcStore seed i - pcStore seed (i + 1) := by
  simp only [pcStore, pcFillAfter_succ, pcRingStep]

/-- The stride is prime to the modulus, so no store is overwritten (R152). -/
theorem pcVisit_injective {i j : Nat} (hi : i < 55) (hj : j < 55) (h : 21 * i % 55 = 21 * j % 55) : i = j := by
  omega

theorem ringGet_pcFillAfter (seed : Word) {n i : Nat} (hn : n ≤ 55) (hi : i < n) :
    ringGet (pcFillAfter seed n).ring (21 * i % 55) = pcStore seed i := by
  induction n with
  | zero => omega
  | succ n ih =>
    have slot_lt : 21 * n % 55 < (pcFillAfter seed n).ring.length := by rw [pcFillAfter_ring_length]; omega
    rw [pcFillAfter_succ, pcRingStep, pcStride, pcLiveWords]
    obtain rfl | hlt : i = n ∨ i < n := by omega
    · exact ringGet_set_self slot_lt _
    · have hne : 21 * n % 55 ≠ 21 * i % 55 := fun h => by
        have := pcVisit_injective (by omega) (by omega) h
        omega
      rw [ringGet_set_ne _ hne, ih (by omega) hlt]

theorem ringGet_pcRingInit (seed : Word) {i : Nat} (hi : i < 55) :
    ringGet (pcRingInit seed) (21 * i % 55) = pcStore seed i := by
  rw [pcRingInit_eq, ringGet_pcFillAfter seed (Nat.le_refl 55) hi]

/-- Settles O39: slot `21 * i mod 55` holds store `i`, and the stores follow the recurrence. -/
theorem pcRingRecurrence : Obligations.PcRingRecurrence := by
  refine ⟨by decide, fun seed => ?_⟩
  have store (i : Nat) (hi : i < 55) := ringGet_pcRingInit seed hi
  have store2 : pcStore seed 2 = seed := by
    rw [pcStore_add_two seed 0, pcStore_zero, pcStore_one, sub_zero]
  have store3 : pcStore seed 3 = -seed := by
    rw [pcStore_add_two seed 1, pcStore_one, store2, zero_sub]
  have store4 : pcStore seed 4 = 2 * seed := by
    rw [pcStore_add_two seed 2, store2, store3, sub_neg_eq_add, two_mul]
  refine ⟨pcRingInit_length seed, store 0 (by omega), (store 1 (by omega)).trans (pcStore_one seed),
    (store 2 (by omega)).trans store2, (store 3 (by omega)).trans store3, (store 4 (by omega)).trans store4,
    fun i hi => ?_⟩
  rw [store (i + 2) hi, store (i + 1) (by omega), store i (by omega), pcStore_add_two]

/-! ### An in-place pass -/

/-- A pass in increasing order that stores into slot `p` from slots `p` and `partner p`: behind `p` it reads the new
word, ahead of `p` the old one (R154). -/
theorem ringGet_inPlacePass {f : List Word → Nat → List Word} {op : Word → Word → Word} {partner : Nat → Nat}
    (step : ∀ r p, f r p = ringSet r p (op (ringGet r p) (ringGet r (partner p)))) (r : List Word) {a n : Nat}
    (h : a + n ≤ r.length) (q : Nat) :
    ringGet ((List.range' a n).foldl f r) q =
      if a ≤ q ∧ q < a + n then
        op (ringGet r q) (ringGet (if partner q < q then (List.range' a n).foldl f r else r) (partner q))
      else ringGet r q := by
  induction n generalizing q with
  | zero => rw [if_neg (by omega)]; rfl
  | succ n ih =>
    have ih := ih (by omega)
    have size : ((List.range' a n).foldl f r).length = r.length :=
      foldl_length (fun r i => by rw [step, ringSet_length]) _ r
    have old : ringGet ((List.range' a n).foldl f r) (a + n) = ringGet r (a + n) := by rw [ih, if_neg (by omega)]
    rw [List.range'_1_concat, List.foldl_append, List.foldl_cons, List.foldl_nil, step, old]
    set ρ := (List.range' a n).foldl f r
    obtain hq | rfl | hq : q < a + n ∨ q = a + n ∨ a + n < q := by omega
    · have same_range : (a ≤ q ∧ q < a + (n + 1)) ↔ (a ≤ q ∧ q < a + n) := by omega
      have same_partner (w : Word) : ringGet (if partner q < q then ringSet ρ (a + n) w else r) (partner q) =
          ringGet (if partner q < q then ρ else r) (partner q) := by
        split
        · exact ringGet_set_ne ρ (by omega) w
        · rfl
      simp only [ringGet_set_ne ρ (show a + n ≠ q by omega), ih, same_range, same_partner]
    · rw [ringGet_set_self (by omega), if_pos (by omega)]
      by_cases hpart : partner (a + n) < a + n
      · rw [if_pos hpart, ringGet_set_ne _ (by omega)]
      · rw [if_neg hpart, ih (partner (a + n)), if_neg (by omega)]
    · rw [ringGet_set_ne _ (by omega), ih, if_neg (by omega), if_neg (by omega)]

/-- Pass 1 of the mix. -/
theorem ringGet_pcMix_pass1 {r : List Word} (h : r.length = 56) (q : Nat) :
    ringGet ((List.range' 1 24).foldl pcMixHigh r) q =
      if 1 ≤ q ∧ q < 25 then ringGet r q - ringGet r (q + 31) else ringGet r q := by
  rw [ringGet_inPlacePass (f := pcMixHigh) (op := (· - ·)) (partner := (· + 31)) (fun _ _ => rfl) r (by omega) q,
    if_neg (show ¬ q + 31 < q by omega)]

/-- Pass 2 of the mix. -/
theorem ringGet_pcMix_pass2 {r : List Word} (h : r.length = 56) (q : Nat) :
    ringGet ((List.range' 25 31).foldl pcMixLow r) q =
      if 25 ≤ q ∧ q < 56 then ringGet r q - ringGet ((List.range' 25 31).foldl pcMixLow r) (q - 24)
      else ringGet r q := by
  rw [ringGet_inPlacePass (f := pcMixLow) (op := (· - ·)) (partner := (· - 24)) (fun _ _ => rfl) r (by omega) q]
  refine if_ctx_congr Iff.rfl (fun hq => ?_) fun _ => rfl
  rw [if_pos (show q - 24 < q by omega)]

/-- Settles O40, pass by pass. -/
theorem pcMixInPlace : Obligations.PcMixInPlace := by
  intro ring hlen
  have size : ((List.range' 1 24).foldl pcMixHigh ring).length = 56 :=
    (foldl_length (fun r i => ringSet_length r i _) _ ring).trans hlen
  have mix_eq : pcMix ring = (List.range' 25 31).foldl pcMixLow ((List.range' 1 24).foldl pcMixHigh ring) := rfl
  have pass1 (q : Nat) := ringGet_pcMix_pass1 hlen q
  have pass2 (q : Nat) := ringGet_pcMix_pass2 size q
  refine ⟨(pcMix_length ring).trans hlen, ?_, fun p hlow hhigh => ?_, fun p hlow hhigh => ?_⟩
  · rw [mix_eq, pass2, if_neg (by omega), pass1, if_neg (by omega)]
  · rw [mix_eq, pass2, if_neg (by omega), pass1, if_pos (by omega)]
  · rw [mix_eq, pass2, if_pos (by omega), pass1, if_neg (by omega)]

/-! ### The slot each draw returns (R156) -/

/-- The ring after the recurrence and the store into slot 55, before any mix (R151). -/
def pcUnmixedRing (slot55 seed : Word) : List Word := ringSet (pcRingInit seed) 55 slot55

/-- At draw `k` of a fresh context, counted from 0, its ring has been mixed `5 + k / 54` times. -/
theorem pcRefill_afterDraws (cfg : Config) (seed : Word) (c : Context) (k : Nat) :
    pcRefill (afterDraws k (pcCreateKeys cfg seed c)) =
      { c with variant := .pc, pcRing := repeated pcMix (5 + k / 54) (pcUnmixedRing cfg.pcSlot55Init seed),
               cursor := 1 + k % 54 } := by
  induction k with
  | zero =>
    simp only [afterDraws_zero, pcRefill, pcCreateKeys, if_true, Nat.zero_div, Nat.zero_mod, Nat.add_zero,
      repeated_succ pcMix 4, pcKeyedRing, pcUnmixedRing, pcLiveWords, pcInitMixes]
  | succ k ih =>
    have hpc : (afterDraws k (pcCreateKeys cfg seed c)).variant = .pc := afterDraws_variant k _
    rw [afterDraws_succ_last, drawWord_of_pc hpc, pcNextWord, ih, pcRefill]
    by_cases hend : 1 + k % 54 + 1 = pcCursorEnd
    · have hwrap : (k + 1) / 54 = k / 54 + 1 ∧ (k + 1) % 54 = 0 := by unfold pcCursorEnd at hend; omega
      rw [if_pos hend, hwrap.1, hwrap.2, ← Nat.add_assoc, repeated_succ]
    · have hsame : (k + 1) / 54 = k / 54 ∧ (k + 1) % 54 = k % 54 + 1 := by unfold pcCursorEnd at hend; omega
      rw [if_neg hend, hsame.1, hsame.2, Nat.add_assoc]

/-- Settles O41: draw `k` returns the slot at the cursor of its refilled context. -/
theorem pcWordSchedule : Obligations.PcWordSchedule := by
  intro cfg seed c k
  have hpc : (afterDraws k (pcCreateKeys cfg seed c)).variant = .pc := afterDraws_variant k _
  rw [keystreamWord, drawWord_of_pc hpc, pcNextWord, pcRefill_afterDraws]
  rfl

end Sys2Proof.Machine
end

section
/-! SUPPORT. The PC keystream is linear in its seed and its slot 55 together (42_cipher_pc.md R160): every rule of
R150-R156 is a subtraction, a copy or a store, so a factor of both rides along. -/

namespace Sys2Proof.Machine

/-- Every word of a ring times `x`. -/
def scaledRing (x : Word) (r : List Word) : List Word := r.map (x * ·)

/-- The running values of the recurrence times `x`. -/
def PcFill.scaled (x : Word) (st : PcFill) : PcFill := { a := x * st.a, b := x * st.b, ring := scaledRing x st.ring }

@[simp] theorem PcFill.scaled_ring (x : Word) (st : PcFill) : (st.scaled x).ring = scaledRing x st.ring := rfl

theorem ringGet_scaledRing (x : Word) (r : List Word) (i : Nat) : ringGet (scaledRing x r) i = x * ringGet r i := by
  simp only [ringGet, scaledRing, List.getD_eq_getElem?_getD, List.getElem?_map]
  cases r[i]? with
  | none => exact (mul_zero x).symm
  | some w => rfl

theorem ringSet_scaledRing (x : Word) (r : List Word) (i : Nat) (w : Word) :
    ringSet (scaledRing x r) i (x * w) = scaledRing x (ringSet r i w) :=
  List.map_set.symm

/-! ### Key setup and the mix, under a factor -/

theorem pcRingStep_scaled (x : Word) (st : PcFill) (i : Nat) :
    pcRingStep (st.scaled x) i = (pcRingStep st i).scaled x := by
  simp only [pcRingStep, PcFill.scaled, ringSet_scaledRing, mul_sub]

theorem pcFill_start_scaled (x seed : Word) (n : Nat) :
    PcFill.scaled x { a := seed, b := seed, ring := List.replicate n 0 } =
      { a := x * seed, b := x * seed, ring := List.replicate n 0 } := by
  simp only [PcFill.scaled, scaledRing, List.map_replicate, mul_zero]

theorem pcRingInit_mul (x seed : Word) : pcRingInit (x * seed) = scaledRing x (pcRingInit seed) := by
  rw [pcRingInit, ← pcFill_start_scaled, List.foldl_hom (PcFill.scaled x) (pcRingStep_scaled x),
    PcFill.scaled_ring, pcRingInit]

theorem pcUnmixedRing_mul (x slot55 seed : Word) :
    pcUnmixedRing (x * slot55) (x * seed) = scaledRing x (pcUnmixedRing slot55 seed) := by
  rw [pcUnmixedRing, pcRingInit_mul, ringSet_scaledRing, pcUnmixedRing]

theorem pcMixHigh_scaled (x : Word) (r : List Word) (p : Nat) :
    pcMixHigh (scaledRing x r) p = scaledRing x (pcMixHigh r p) := by
  simp only [pcMixHigh, ringGet_scaledRing, ← mul_sub, ringSet_scaledRing]

theorem pcMixLow_scaled (x : Word) (r : List Word) (p : Nat) :
    pcMixLow (scaledRing x r) p = scaledRing x (pcMixLow r p) := by
  simp only [pcMixLow, ringGet_scaledRing, ← mul_sub, ringSet_scaledRing]

theorem pcMix_scaled (x : Word) (r : List Word) : pcMix (scaledRing x r) = scaledRing x (pcMix r) := by
  rw [pcMix, List.foldl_hom (scaledRing x) (pcMixHigh_scaled x), List.foldl_hom (scaledRing x) (pcMixLow_scaled x),
    pcMix]

theorem repeated_pcMix_scaled (x : Word) (n : Nat) (r : List Word) :
    repeated pcMix n (scaledRing x r) = scaledRing x (repeated pcMix n r) := by
  induction n generalizing r with
  | zero => rfl
  | succ n ih => rw [repeated, pcMix_scaled, ih, repeated]

/-! ### The keystream, under a factor -/

/-- Word `k` of the PC keystream, counted from 0, from the word in slot 55 and the seed (R156). -/
def pcWord (slot55 seed : Word) (k : Nat) : Word :=
  ringGet (repeated pcMix (5 + k / 54) (pcUnmixedRing slot55 seed)) (1 + k % 54)

theorem keystreamWord_pcCreateKeys (cfg : Config) (seed : Word) (c : Context) (k : Nat) :
    keystreamWord (pcCreateKeys cfg seed c) k = pcWord cfg.pcSlot55Init seed k :=
  pcWordSchedule cfg seed c k

theorem pcWord_mul (x slot55 seed : Word) (k : Nat) : pcWord (x * slot55) (x * seed) k = x * pcWord slot55 seed k := by
  rw [pcWord, pcUnmixedRing_mul, repeated_pcMix_scaled, ringGet_scaledRing, pcWord]

theorem pcWord_eq_mul_one (seed : Word) (k : Nat) : pcWord 0 seed k = seed * pcWord 0 1 k := by
  rw [← pcWord_mul, mul_zero, mul_one]

theorem pcWord_zero (k : Nat) : pcWord 0 0 k = 0 := by
  rw [pcWord_eq_mul_one, zero_mul]

/-- Under seed 0 the word in slot 55 comes out unchanged as the 20th word: five mixes bring it to slot 20 with
factor 1. -/
theorem pcWord_seed_zero (slot55 : Word) : pcWord slot55 0 19 = slot55 := by
  have unit : pcWord 1 0 19 = 1 := by decide +kernel
  calc pcWord slot55 0 19 = pcWord (slot55 * 1) (slot55 * 0) 19 := by rw [mul_one, mul_zero]
    _ = slot55 * pcWord 1 0 19 := pcWord_mul slot55 1 0 19
    _ = slot55 := by rw [unit, mul_one]

/-- Settles O43: a factor of the seed rides along where slot 55 is 0; where it is not, seed 0 gives it back. -/
theorem pcKeystreamIsLinear : Obligations.PcKeystreamIsLinear := by
  refine ⟨fun cfg c hzero => ?_, fun cfg c hnonzero => ⟨0, 19, ?_⟩⟩
  · have words (seed : Word) (k : Nat) : keystreamWord (pcCreateKeys cfg seed c) k = pcWord 0 seed k := by
      rw [keystreamWord_pcCreateKeys, hzero]
    have zeros (k : Nat) : keystreamWord (pcCreateKeys cfg 0 c) k = 0 := (words 0 k).trans (pcWord_zero k)
    refine ⟨fun seed k => ?_, zeros, fun buf m hwf => ?_⟩
    · rw [words, words, pcWord_eq_mul_one]
    · rw [pcTransform, transformWords_of_pc _ _ _ rfl]
      refine Memory.ext_of_words (transformWords_wf _ _ _ hwf _) hwf buf.base (buf.len / 4) (fun j hj => ?_) fun b hb =>
        transformWords_read_outside _ _ _ _ _ hb
      rw [transformWords_drawWord_readWord _ _ hwf _ hj, zeros]
      exact BitVec.xor_zero
  · rw [keystreamWord_pcCreateKeys, pcWord_seed_zero, zero_mul]
    exact hnonzero

end Sys2Proof.Machine
end

section
/-! SUPPORT. The keystream of a keyed slot is a function of the seed alone (10_state.md R37; 42_cipher_pc.md R161;
43_cipher_gc.md R181), so the same transform under the same seed undoes itself (R159). -/

namespace Sys2Proof.Machine

/-- The same context with another PC ring. -/
def Context.withPcRing (r : List Word) (c : Context) : Context := { c with pcRing := r }

/-- The GC rules carry the PC ring along (log 11). -/
theorem gcNextWord_withPcRing (r : List Word) (c : Context) :
    gcNextWord (c.withPcRing r) = ((gcNextWord c).1, (gcNextWord c).2.withPcRing r) := by
  by_cases hend : c.cursor + 1 = gcRingWords
  · rw [gcNextWord_at_end hend, gcNextWord_at_end (c := c.withPcRing r) hend]
    simp only [Context.withPcRing]
  · rw [gcNextWord_before_end hend, gcNextWord_before_end (c := c.withPcRing r) hend]
    simp only [Context.withPcRing]

theorem keystreamWord_withPcRing (r : List Word) (k : Nat) {c : Context} (h : c.variant = .gc) :
    keystreamWord (c.withPcRing r) k = keystreamWord c k := by
  induction k generalizing c with
  | zero => rw [keystreamWord_zero, keystreamWord_zero, drawWord_of_gc (c := c.withPcRing r) h, drawWord_of_gc h,
      gcNextWord_withPcRing]
  | succ k ih =>
    rw [keystreamWord_succ, keystreamWord_succ, drawWord_of_gc (c := c.withPcRing r) h, drawWord_of_gc h,
      gcNextWord_withPcRing, ih ((gcNextWord_variant c).trans h)]

/-- All that GC key setup leaves of the earlier context is its PC ring (R193). -/
theorem gcCreateKeys_previous (cfg : Config) (seed : Word) (c c' : Context) :
    gcCreateKeys cfg seed c = (gcCreateKeys cfg seed c').withPcRing c.pcRing := by
  simp only [gcCreateKeys_eq, Context.withPcRing]

/-- Settles O48: a PC keystream by its word schedule, a GC keystream since it does not read the PC ring. -/
theorem keystreamDependsOnSeedAlone : Obligations.KeystreamDependsOnSeedAlone := by
  intro cfg v seed c c' k hv
  cases v with
  | none => exact absurd rfl hv
  | pc => exact (keystreamWord_pcCreateKeys cfg seed c k).trans (keystreamWord_pcCreateKeys cfg seed c' k).symm
  | gc =>
    have hgc : (gcCreateKeys cfg seed c').variant = .gc := keyedContext_variant cfg hv seed c'
    rw [keyedContext, keyedContext, gcCreateKeys_previous cfg seed c c', keystreamWord_withPcRing _ k hgc]

/-- A second transform with the same keystream undoes the first. -/
theorem transformWords_twice (n a : Nat) {m : Memory} (h : m.wf) {c c' : Context}
    (same : ∀ k, keystreamWord c' k = keystreamWord c k) :
    (transformWords drawWord n a (transformWords drawWord n a m c).1 c').1 = m := by
  have first_wf : (transformWords drawWord n a m c).1.wf := transformWords_wf _ _ _ h _
  refine Memory.ext_of_words (transformWords_wf _ _ _ first_wf _) h a n (fun j hj => ?_) fun b hb => ?_
  · rw [transformWords_drawWord_readWord n a first_wf c' hj, transformWords_drawWord_readWord n a h c hj, same,
      BitVec.xor_assoc, BitVec.xor_self, BitVec.xor_zero]
  · rw [transformWords_read_outside _ _ _ _ _ hb, transformWords_read_outside _ _ _ _ _ hb]

/-- Key setup and then `CRYPT` on a slot that exists, as one transform of memory under the keyed context. -/
theorem createKeys_then_crypt {s : State} {slot : Half} {v : Variant} (hv : v ≠ .none) (seed : Word)
    {bb bl flags : Word} (hacc : cryptAccepted s slot bb bl flags) :
    ∃ c s1 t, exec (.cipherCreateKeys (tagOf v) slot seed) s = .next s1 ∧
      exec (.cipherCrypt 0 slot bb bl flags) s1 = .next t ∧
      t.mem = (transformWords drawWord (bl.toNat / 4) bb.toNat s.mem (keyedContext s.cfg v seed c)).1 := by
  obtain ⟨hslot, hflags, hvalid, hlen⟩ := hacc
  have hctx : s.slots[slot.toNat]? = some s.slots[slot.toNat] := List.getElem?_eq_getElem hslot
  refine ⟨s.slots[slot.toNat], _, _, exec_createKeys_keyed hv hctx seed,
    exec_crypt_keyed ?_ ?_ ⟨?_, hflags, hvalid, hlen⟩, rfl⟩
  · rw [State.afterKeys_slots, List.getElem?_set_self hslot]
  · rwa [keyedContext_variant s.cfg hv]
  · rwa [State.nCtx_eq, State.afterKeys_slots, List.length_set]

/-- Settles O49: both transforms draw the keystream of the seed. -/
theorem cryptTwiceRestores : Obligations.CryptTwiceRestores := by
  intro s slot seed v bb bl flags flags' hv hacc hflags' hwf
  obtain ⟨c, s1, t, hkeys, hcrypt, hmem⟩ := createKeys_then_crypt hv seed hacc
  obtain ⟨hcfg1, hn1, -⟩ := exec_keeps hkeys
  obtain ⟨hcfg, hn, -⟩ := exec_keeps hcrypt
  have same_cfg : t.cfg = s.cfg := hcfg.trans hcfg1
  have same_nCtx : t.nCtx = s.nCtx := hn.trans hn1
  have hacc' : cryptAccepted t slot bb bl flags' := by
    obtain ⟨hslot, -, hvalid, hlen⟩ := hacc
    exact ⟨same_nCtx ▸ hslot, hflags', same_cfg ▸ hvalid, hlen⟩
  obtain ⟨c', s2, u, hkeys', hcrypt', hmem'⟩ := createKeys_then_crypt hv seed hacc'
  refine ⟨s1, t, s2, u, hkeys, hcrypt, hkeys', hcrypt', ?_⟩
  rw [hmem', hmem, same_cfg]
  exact transformWords_twice _ _ hwf fun k => keystreamDependsOnSeedAlone s.cfg v seed c' c k hv

end Sys2Proof.Machine
end

section
/-! SUPPORT. The GameCube ring (43_cipher_gc.md R170-R179): the bits of the base words, the fill from words already
final, the in-place mix, and the slot that each draw returns. -/

namespace Sys2Proof.Machine

/-! ### The base words (R170) -/

theorem lcgState_succ (seed : Word) (n : Nat) : lcgState seed (n + 1) = lcgState seed n * gcMult + gcInc :=
  repeated_succ _ n seed

theorem repeated_gcRound_s (n : Nat) (g : GcSeed) : (repeated gcRound n g).s = lcgState g.s n := by
  induction n with
  | zero => rfl
  | succ n ih => rw [repeated_succ, gcRound, ih, lcgState_succ]

/-- A round puts bit 31 of the new LCG state on top of the accumulator. -/
theorem gcRound_bk_top (g : GcSeed) : (gcRound g).bk.getLsbD 31 = (gcRound g).s.getLsbD 31 := by
  simp [gcRound]

/-- A round moves every older bit of the accumulator one place down. -/
theorem gcRound_bk_below (g : GcSeed) {i : Nat} (hi : i < 31) : (gcRound g).bk.getLsbD i = g.bk.getLsbD (i + 1) := by
  have mask : (0x80000000#32).getLsbD i = false := by
    rw [show 0x80000000#32 = BitVec.twoPow 32 31 from rfl, BitVec.getLsbD_twoPow]
    simp [hi.ne']
  simp [gcRound, mask, Nat.add_comm 1 i]

/-- The accumulator holds bit 31 of the last 32 LCG states, the newest on top. -/
theorem repeated_gcRound_bk (g : GcSeed) {n m : Nat} (hm : m < 32) (hn : m < n) :
    (repeated gcRound n g).bk.getLsbD (31 - m) = (lcgState g.s (n - m)).getLsbD 31 := by
  induction n generalizing m with
  | zero => omega
  | succ n ih =>
    cases m with
    | zero => rw [Nat.sub_zero, Nat.sub_zero, ← repeated_gcRound_s, repeated_succ, gcRound_bk_top]
    | succ m =>
      rw [repeated_succ, gcRound_bk_below _ (by omega), show 31 - (m + 1) + 1 = 31 - m by omega,
        ih (by omega) (by omega), Nat.add_sub_add_right]

/-- The rounds run on from word to word: word `j` is the accumulator after `32 * (j + 1)` of them. -/
theorem ringGet_gcBaseWordsFrom (g : GcSeed) {n j : Nat} (hj : j < n) :
    ringGet (gcBaseWordsFrom n g) j = (repeated gcRound (32 * (j + 1)) g).bk := by
  induction n generalizing g j with
  | zero => omega
  | succ n ih =>
    cases j with
    | zero => rfl
    | succ j =>
      calc ringGet (gcBaseWordsFrom (n + 1) g) (j + 1)
          = ringGet (gcBaseWordsFrom n (repeated gcRound 32 g)) j := rfl
        _ = (repeated gcRound (32 * (j + 1)) (repeated gcRound 32 g)).bk := ih _ (by omega)
        _ = (repeated gcRound (32 * (j + 1 + 1)) g).bk := by rw [← repeated_add, Nat.add_comm, ← Nat.mul_succ]

@[simp] theorem gcBaseWords_length (seed : Word) : (gcBaseWords seed).length = 17 :=
  gcBaseWordsFrom_length 17 _

/-- Settles O44: word `j` is the accumulator after `32 * (j + 1)` rounds. -/
theorem gcBaseWordBits : Obligations.GcBaseWordBits := by
  refine fun seed => ⟨gcBaseWords_length seed, fun j m hj hm => ?_⟩
  have word : ringGet (gcBaseWords seed) j = (repeated gcRound (32 * (j + 1)) ⟨seed, 0⟩).bk :=
    ringGet_gcBaseWordsFrom _ hj
  rw [word, repeated_gcRound_bk _ hm (by omega), show 32 * (j + 1) - m = 32 * j + (32 - m) by omega]

/-! ### The fill (R171, R172) -/

/-- A pass in increasing order whose store into slot `p` is a function of the slots below `p`: those are final by then,
so the whole result obeys the same recurrence. -/
theorem ringGet_recurrencePass {f : List Word → Nat → List Word} {val : List Word → Nat → Word} {a n : Nat}
    (step : ∀ r p, f r p = ringSet r p (val r p))
    (reads_below : ∀ r r' p, a ≤ p → (∀ q, q < p → ringGet r q = ringGet r' q) → val r p = val r' p)
    {r : List Word} (h : a + n ≤ r.length) (q : Nat) :
    ringGet ((List.range' a n).foldl f r) q =
      if a ≤ q ∧ q < a + n then val ((List.range' a n).foldl f r) q else ringGet r q := by
  induction n with
  | zero => rw [if_neg (by omega)]; rfl
  | succ n ih =>
    have ih := ih (by omega)
    have size : ((List.range' a n).foldl f r).length = r.length :=
      foldl_length (fun r i => by rw [step, ringSet_length]) _ r
    rw [List.range'_1_concat, List.foldl_append, List.foldl_cons, List.foldl_nil, step]
    set ρ := (List.range' a n).foldl f r
    have final_below (w : Word) (p : Nat) (hp : a ≤ p) (hpn : p ≤ a + n) :
        val ρ p = val (ringSet ρ (a + n) w) p :=
      reads_below _ _ p hp fun q hq => (ringGet_set_ne ρ (by omega) w).symm
    obtain hq | rfl | hq : q < a + n ∨ q = a + n ∨ a + n < q := by omega
    · have same_range : (a ≤ q ∧ q < a + (n + 1)) ↔ (a ≤ q ∧ q < a + n) := by omega
      rw [ringGet_set_ne ρ (by omega), ih]
      simp only [same_range]
      exact if_ctx_congr Iff.rfl (fun hrange => final_below _ q hrange.1 (by omega)) fun _ => rfl
    · rw [ringGet_set_self (by omega), if_pos (by omega)]
      exact final_below _ _ (by omega) (Nat.le_refl _)
    · rw [ringGet_set_ne ρ (by omega), ih, if_neg (by omega), if_neg (by omega)]

/-- The word that the fill stores into slot `i` (R172). -/
def gcFillWord (tap : Nat) (word : List Word) (i : Nat) : Word :=
  ringGet word (i - tap) ^^^ ((ringGet word (i - 17) <<< 23) &&& 0xFF800000)
    ^^^ ((ringGet word (i - 16) >>> 9) &&& 0x007FFFFF)

theorem gcFillStep_eq (tap : Nat) (word : List Word) (i : Nat) :
    gcFillStep tap word i = ringSet word i (gcFillWord tap word i) := rfl

theorem gcFillWord_reads_below {tap : Nat} (htap : 1 ≤ tap) (r r' : List Word) (i : Nat) (hi : 17 ≤ i)
    (same : ∀ q, q < i → ringGet r q = ringGet r' q) : gcFillWord tap r i = gcFillWord tap r' i := by
  rw [gcFillWord, same (i - tap) (by omega), same (i - 17) (by omega), same (i - 16) (by omega), gcFillWord]

theorem ringGet_gcFill {tap : Nat} (htap : 1 ≤ tap) {r : List Word} (h : r.length = 521) (q : Nat) :
    ringGet (gcFill tap r) q = if 17 ≤ q ∧ q < 521 then gcFillWord tap (gcFill tap r) q else ringGet r q :=
  ringGet_recurrencePass (a := 17) (n := 504) (gcFillStep_eq tap) (gcFillWord_reads_below htap) h.ge q

/-- The base words in a ring of 521 slots, the others still 0. -/
def gcPaddedWords (seed : Word) : List Word := gcBaseWords seed ++ List.replicate 504 0

theorem gcInitRing_eq (tap : Nat) (seed : Word) : gcInitRing tap seed = gcFill tap (gcOverwrite (gcPaddedWords seed)) :=
  rfl

@[simp] theorem gcPaddedWords_length (seed : Word) : (gcPaddedWords seed).length = 521 := by
  rw [gcPaddedWords, List.length_append, gcBaseWords_length, List.length_replicate]

theorem ringGet_gcPaddedWords (seed : Word) {j : Nat} (hj : j < 17) :
    ringGet (gcPaddedWords seed) j = ringGet (gcBaseWords seed) j :=
  List.getD_append _ _ 0 j (hj.trans_eq (gcBaseWords_length seed).symm)

theorem gcOverwrite_eq (word : List Word) :
    gcOverwrite word =
      ringSet word 16 ((ringGet word 0 >>> 9) ^^^ (ringGet word 16 <<< 23) ^^^ ringGet word 15) := rfl

@[simp] theorem gcOverwrite_length (word : List Word) : (gcOverwrite word).length = word.length :=
  ringSet_length word _ _

/-- The ring before its mixes: the fill keeps slots 0..16, and from slot 17 on obeys its recurrence. -/
theorem ringGet_gcInitRing {tap : Nat} (htap : 1 ≤ tap) (seed : Word) (q : Nat) :
    ringGet (gcInitRing tap seed) q =
      if 17 ≤ q ∧ q < 521 then gcFillWord tap (gcInitRing tap seed) q
      else ringGet (gcOverwrite (gcPaddedWords seed)) q := by
  rw [gcInitRing_eq]
  exact ringGet_gcFill htap ((gcOverwrite_length _).trans (gcPaddedWords_length seed)) q

/-- Settles O45: the words of the fill by its recurrence, those below from the base words, word 16 overwritten. -/
theorem gcRingFill : Obligations.GcRingFill := by
  intro tap seed htap _ b w
  have size : (gcPaddedWords seed).length = 521 := gcPaddedWords_length seed
  have fill (q : Nat) := ringGet_gcInitRing htap seed q
  have keeps_base (q : Nat) (hq : q < 17) : ringGet w q = ringGet (gcOverwrite (gcPaddedWords seed)) q :=
    (fill q).trans (if_neg (by omega))
  have base (j : Nat) (hj : j < 17) : ringGet (gcPaddedWords seed) j = ringGet b j := ringGet_gcPaddedWords seed hj
  refine ⟨gcInitRing_length tap seed, fun j hj => ?_, ?_, fun i hlow hhigh => ?_⟩
  · rw [keeps_base j (by omega), gcOverwrite_eq, ringGet_set_ne _ (by omega), base j (by omega)]
  · rw [keeps_base 16 (by omega), gcOverwrite_eq, ringGet_set_self (by omega), base 0 (by omega), base 16 (by omega),
      base 15 (by omega)]
  · exact (fill i).trans (if_pos (by omega))

/-! ### The mix (R173, R175) -/

@[simp] theorem gcMix_gcRing (c : Context) : (gcMix c).gcRing = gcMixRing c.gcRing := by rw [gcMix]
@[simp] theorem gcMix_cursor (c : Context) : (gcMix c).cursor = 0 := rfl

theorem ringGet_gcMixRing {r : List Word} (h : r.length = 521) {i : Nat} (hi : i < 521) :
    ringGet (gcMixRing r) i =
      ringGet r i ^^^ ringGet (if (i + 489) % 521 < i then gcMixRing r else r) ((i + 489) % 521) := by
  have pass : gcMixRing r = (List.range' 0 521).foldl gcMixStep r := by
    rw [gcMixRing, gcRingWords, List.range_eq_range']
  rw [pass, ringGet_inPlacePass (f := gcMixStep) (op := (· ^^^ ·)) (partner := fun i => (i + 489) % 521)
    (fun _ _ => rfl) r (by omega) i, if_pos (by omega)]

/-- Settles O46: the slot 489 ahead is in the ring up to slot 31, and from slot 32 on it is the slot 32 behind. -/
theorem gcMixInPlace : Obligations.GcMixInPlace := by
  intro c hlen
  rw [gcMix_gcRing]
  refine ⟨(gcMixRing_length c.gcRing).trans hlen, gcMix_cursor c, fun i hi => ?_, fun i hlow hhigh => ?_⟩
  · have ahead : (i + 489) % 521 = i + 489 := Nat.mod_eq_of_lt (by omega)
    rw [ringGet_gcMixRing hlen (by omega), ahead, if_neg (by omega)]
  · have behind : (i + 489) % 521 = i - 32 := by omega
    rw [ringGet_gcMixRing hlen (by omega), behind, if_pos (by omega)]

/-! ### The slot each draw returns (R178) -/

theorem drawWord_gcCreateKeys (cfg : Config) (seed : Word) (c : Context) (k : Nat) :
    drawWord (afterDraws k (gcCreateKeys cfg seed c)) = gcNextWord (afterDraws k (gcCreateKeys cfg seed c)) :=
  drawWord_of_gc (by rw [afterDraws_variant, gcCreateKeys_eq])

/-- Draw `k` of a fresh context, counted from 0, advances it to slot `k % 521` of the ring after `4 + k / 521` mixes. -/
theorem gcAdvance_afterDraws (cfg : Config) (seed : Word) (c : Context) (k : Nat) :
    gcAdvance (afterDraws k (gcCreateKeys cfg seed c)) =
      { c with variant := .gc, gcRing := repeated gcMixRing (4 + k / 521) (gcInitRing cfg.gcFillTap seed),
               cursor := k % 521, seed0 := seed } := by
  induction k with
  | zero =>
    have hend : (gcCreateKeys cfg seed c).cursor + 1 = gcRingWords :=
      congrArg Nat.succ (gcCreateKeys_ends_at cfg seed c).1
    rw [afterDraws_zero, gcAdvance, if_pos hend, gcMix, gcCreateKeys_eq, gcInitMixes, ← repeated_succ gcMixRing 3]
  | succ k ih =>
    rw [afterDraws_succ_last, drawWord_gcCreateKeys, gcNextWord, ih, gcAdvance]
    by_cases hend : k % 521 + 1 = gcRingWords
    · have hwrap : (k + 1) / 521 = k / 521 + 1 ∧ (k + 1) % 521 = 0 := by unfold gcRingWords at hend; omega
      rw [if_pos hend, hwrap.1, hwrap.2, ← Nat.add_assoc, repeated_succ, gcMix]
    · have hsame : (k + 1) / 521 = k / 521 ∧ (k + 1) % 521 = k % 521 + 1 := by unfold gcRingWords at hend; omega
      rw [if_neg hend, hsame.1, hsame.2]

theorem gcCursor_afterDraws (cfg : Config) (seed : Word) (c : Context) (k : Nat) :
    (afterDraws k (gcCreateKeys cfg seed c)).cursor ≤ 520 := by
  cases k with
  | zero => exact (gcCreateKeys_ends_at cfg seed c).1.le
  | succ k =>
    rw [afterDraws_succ_last, drawWord_gcCreateKeys, gcNextWord, gcAdvance_afterDraws]
    exact Nat.le_of_lt_succ (Nat.mod_lt k (by decide))

/-- Settles O47: draw `k` returns the slot at the cursor of its advanced context. -/
theorem gcWordSchedule : Obligations.GcWordSchedule := by
  refine fun cfg seed c k => ⟨?_, gcCursor_afterDraws cfg seed c k⟩
  rw [keystreamWord, drawWord_gcCreateKeys, gcNextWord, gcAdvance_afterDraws]

end Sys2Proof.Machine
end

section
/-! SUPPORT. `RELEASE`, and the refusals of the cipher commands in the order of 44_facade.md R190 and R194: the slot, the
unread `CW.VAR`, and for `CRYPT` the flags, the buffer and its length. -/

namespace Sys2Proof.Machine

variable {s : State} {slot : Half} {ctx : Context} {bb bl flags : Word}

/-- Settles O33: the command on a slot that exists is the store of its context without a variant. -/
theorem releaseDropsContext : Obligations.ReleaseDropsContext := by
  intro s slot ctx hslot
  exact ⟨_, execCipherRelease_next.2 ⟨rfl, ctx, hslot, rfl⟩, rfl, rfl, rfl, rfl, rfl, rfl, rfl, rfl⟩

/-- The slot is checked before anything else (R190). -/
theorem exec_badSlot {i : Instr} (hi : cipherSlot i = some slot) (hslot : s.nCtx ≤ slot.toNat) :
    exec i s = .refused .badSlot := by
  cases i with
  | endStream | lcopyt | lcopyh | scopy | lit | prsCompress | prsDecompress | prsSize => cases hi
  | cipherCreateKeys | cipherCrypt | cipherNextWord | cipherRelease =>
    cases hi
    simp only [exec, execCipherCreateKeys, execCipherCrypt, execCipherNextWord, execCipherRelease, onCipherSlot,
      onSlot_none hslot]

theorem onCipherSlot_reserved (hslot : s.slots[slot.toNat]? = some ctx) {var : Byte} (hvar : var ≠ 0)
    (f : Nat → Context → Result) : onCipherSlot var slot s f = .refused .reservedField := by
  rw [onCipherSlot, onSlot_some hslot, if_pos hvar]

theorem execCipherCreateKeys_unsupported (hslot : s.slots[slot.toNat]? = some ctx) (seed : Word) :
    execCipherCreateKeys 0x02 slot seed s = .refused .unsupported := by
  rw [execCipherCreateKeys, onSlot_some hslot, variantTag_blueBurst.2 rfl]

theorem execCipherCrypt_reservedFlags (hslot : s.slots[slot.toNat]? = some ctx) (hflags : flags >>> 1 ≠ 0) :
    execCipherCrypt 0 slot bb bl flags s = .refused .reservedField := by
  rw [execCipherCrypt, onCipherSlot_some hslot, if_pos hflags]

theorem execCipherCrypt_badBuffer (hslot : s.slots[slot.toNat]? = some ctx) (hflags : flags >>> 1 = 0)
    (hvalid : (bufferOf bb bl).valid s.cfg = false) :
    execCipherCrypt 0 slot bb bl flags s = .refused .badBuffer := by
  rw [execCipherCrypt, onCipherSlot_some hslot]
  simp [hflags, hvalid]

theorem execCipherCrypt_badLength (hslot : s.slots[slot.toNat]? = some ctx) (hflags : flags >>> 1 = 0)
    (hvalid : (bufferOf bb bl).valid s.cfg = true) (hlen : bl.toNat % 4 ≠ 0) :
    execCipherCrypt 0 slot bb bl flags s = .refused .badLength := by
  have hmod : (bufferOf bb bl).len % 4 ≠ 0 := hlen
  rw [execCipherCrypt, onCipherSlot_some hslot]
  simp [hflags, hvalid, hmod]

/-- The order of the refusals for `flags` a word, as R85 has it. `Obligations.CipherRefusalOrder` differs in this alone:
its clauses on `CRYPT` quantify `flags` over `Nat`. -/
theorem cipherRefusalOrder_of_word_flags (s : State) (slot : Half) :
    (∀ i, cipherSlot i = some slot → s.nCtx ≤ slot.toNat → exec i s = .refused .badSlot) ∧
    (slot.toNat < s.nCtx →
      (∀ var, var ≠ 0 →
        exec (.cipherNextWord var slot) s = .refused .reservedField ∧
        exec (.cipherRelease var slot) s = .refused .reservedField ∧
        ∀ bb bl flags, exec (.cipherCrypt var slot bb bl flags) s = .refused .reservedField) ∧
      (∀ seed, exec (.cipherCreateKeys 0x02 slot seed) s = .refused .unsupported) ∧
      ∀ bb bl flags : Word,
        (flags >>> 1 ≠ 0 → exec (.cipherCrypt 0 slot bb bl flags) s = .refused .reservedField) ∧
        (flags >>> 1 = 0 → (bufferOf bb bl).valid s.cfg = false →
          exec (.cipherCrypt 0 slot bb bl flags) s = .refused .badBuffer) ∧
        (flags >>> 1 = 0 → (bufferOf bb bl).valid s.cfg = true → bl.toNat % 4 ≠ 0 →
          exec (.cipherCrypt 0 slot bb bl flags) s = .refused .badLength)) := by
  refine ⟨fun i => exec_badSlot, fun hlt => ?_⟩
  have hslot : s.slots[slot.toNat]? = some s.slots[slot.toNat] := List.getElem?_eq_getElem hlt
  refine ⟨fun var hvar => ⟨?nextWord, ?release, fun bb bl flags => ?crypt⟩, execCipherCreateKeys_unsupported hslot,
    fun bb bl flags => ⟨execCipherCrypt_reservedFlags hslot, execCipherCrypt_badBuffer hslot,
      execCipherCrypt_badLength hslot⟩⟩
  case nextWord => rw [exec, execCipherNextWord, onCipherSlot_reserved hslot hvar]
  case release => rw [exec, execCipherRelease, onCipherSlot_reserved hslot hvar]
  case crypt => rw [exec, execCipherCrypt, onCipherSlot_reserved hslot hvar]

/-- Every slot is unkeyed after reset (R43), and a buffer of no bytes at address 0 is valid (R50), so `CRYPT` on them ends
in `ContextNotKeyed`. -/
theorem exec_crypt_reset :
    exec (.cipherCrypt 0 0 0 0 0) State.reset = .next (State.reset.finishError .contextNotKeyed) :=
  execCipherCrypt_next.2 ⟨rfl, by decide, Context.reset, rfl, .inl ⟨rfl, rfl⟩⟩

/-- Refutes O35: its clauses on `CRYPT` quantify `flags` over `Nat` and cast it to a word, so that `2 ^ 32` has bits above
bit 0 and is yet the word 0, whose reserved bits are clear: after reset the command with it is not refused. For `flags` a
word the order holds (`cipherRefusalOrder_of_word_flags`). -/
theorem not_cipherRefusalOrder : ¬ Obligations.CipherRefusalOrder := by
  rintro ⟨-, horder⟩
  have hexists : (0 : Half).toNat < State.reset.nCtx := by decide
  obtain ⟨-, -, hreserved, -⟩ := horder State.reset 0 hexists
  have hrefused := hreserved 0 0 (2 ^ 32) (by decide)
  have hcast : ((2 ^ 32 : Nat) : Word) = 0 := by decide
  rw [hcast, exec_crypt_reset] at hrefused
  cases hrefused

end Sys2Proof.Machine
end

section
/-! SUPPORT. A PRS command and its tokens touch no slot (44_facade.md R198): the slots can be exchanged before the
command or after it. -/

namespace Sys2Proof.Machine

variable {s t : State} {l : List Context}

/-! ### The endings and the outputs -/

theorem State.withSlots_prsError (s : State) (l : List Context) (dst : Option Buffer) (e : ErrorCode) :
    (s.withSlots l).prsError dst e = (s.prsError dst e).withSlots l := by
  cases dst <;> rfl

theorem State.withSlots_putOutput (s : State) (l : List Context) (w : Walk) (b : Byte) :
    (s.withSlots l).putOutput w b = (s.putOutput w b).withSlots l := by
  unfold State.putOutput
  cases w.dst <;> rfl

theorem State.withSlots_copyOutput (s : State) (l : List Context) (w : Walk) (distance : Int) (len : Nat) :
    (s.withSlots l).copyOutput w distance len = (s.copyOutput w distance len).withSlots l := by
  unfold State.copyOutput
  cases w.dst <;> rfl

theorem deliver_withSlots (dst : Buffer) (e : Emitter) (s : State) (l : List Context) :
    deliver dst e (s.withSlots l) = (deliver dst e s).withSlots l := by
  unfold deliver
  split
  · exact State.withSlots_prsError ..
  · rfl

/-! ### The walk -/

theorem copyToken_withSlots {distance : Int} {len : Nat} (h : copyToken distance len s = .next t) :
    copyToken distance len (s.withSlots l) = .next (t.withSlots l) := by
  obtain ⟨w, hj, hv, ⟨hstart, rfl⟩ | ⟨hstart, hroom, rfl⟩ | ⟨hstart, hroom, rfl⟩⟩ := copyToken_next.1 h
  · exact copyToken_next.2 ⟨w, hj, hv, .inl ⟨hstart, (State.withSlots_prsError ..).symm⟩⟩
  · exact copyToken_next.2 ⟨w, hj, hv, .inr (.inl ⟨hstart, hroom, (State.withSlots_copyOutput ..).symm⟩)⟩
  · exact copyToken_next.2 ⟨w, hj, hv, .inr (.inr ⟨hstart, hroom, (State.withSlots_prsError ..).symm⟩)⟩

theorem execLit_withSlots {b : Byte} (h : execLit b s = .next t) :
    execLit b (s.withSlots l) = .next (t.withSlots l) := by
  obtain ⟨w, hj, hv, ⟨hroom, rfl⟩ | ⟨hroom, rfl⟩⟩ := execLit_next.1 h
  · exact execLit_next.2 ⟨w, hj, hv, .inl ⟨hroom, (State.withSlots_putOutput ..).symm⟩⟩
  · exact execLit_next.2 ⟨w, hj, hv, .inr ⟨hroom, (State.withSlots_prsError ..).symm⟩⟩

theorem runToken_withSlots {i : Instr} (h : runToken i s = .next t) :
    runToken i (s.withSlots l) = .next (t.withSlots l) := by
  cases i with
  | endStream =>
    obtain ⟨w, hj, hv, rfl⟩ := execEndStream_next.1 h
    exact execEndStream_next.2 ⟨w, hj, hv, rfl⟩
  | lcopyt | lcopyh | scopy => exact copyToken_withSlots h
  | lit => exact execLit_withSlots h
  | prsCompress | prsDecompress | prsSize | cipherCreateKeys | cipherCrypt | cipherNextWord | cipherRelease => cases h

theorem walkStep_withSlots (h : walkStep s = .next t) : walkStep (s.withSlots l) = .next (t.withSlots l) := by
  obtain ⟨w, hj, hv, ⟨e, hd, rfl⟩ | ⟨i, dc, hd, hrun⟩⟩ := walkStepWith_next.1 h
  · exact walkStepWith_next.2 ⟨w, hj, hv, .inl ⟨e, hd, (State.withSlots_prsError ..).symm⟩⟩
  · exact walkStepWith_next.2 ⟨w, hj, hv, .inr ⟨i, dc, hd, runToken_withSlots hrun⟩⟩

theorem runWalk_withSlots {fuel : Nat} (h : runWalk fuel s = .next t) :
    runWalk fuel (s.withSlots l) = .next (t.withSlots l) := by
  induction fuel generalizing s with
  | zero => cases h
  | succ fuel ih =>
    obtain ⟨u, hround, ⟨hjob, rfl⟩ | ⟨hjob, hrest⟩⟩ := runWalk_next.1 h
    · exact runWalk_next.2 ⟨t.withSlots l, walkStep_withSlots hround, .inl ⟨hjob, rfl⟩⟩
    · exact runWalk_next.2 ⟨u.withSlots l, walkStep_withSlots hround, .inr ⟨hjob, ih hrest⟩⟩

theorem runDecode_withSlots {src : Buffer} {dst : Option Buffer} (h : runDecode src dst s = .next t) :
    runDecode src dst (s.withSlots l) = .next (t.withSlots l) :=
  runWalk_withSlots (s := s.withJob (some (.decode (Walk.start src dst)))) h

/-! ### The instructions -/

theorem exec_withSlots {i : Instr} (hi : cipherSlot i = none) (h : exec i s = .next t) (l : List Context) :
    exec i (s.withSlots l) = .next (t.withSlots l) := by
  cases i with
  | endStream | lcopyt | lcopyh | scopy | lit =>
    rw [exec_of_isToken rfl] at h ⊢
    exact runToken_withSlots h
  | prsCompress =>
    obtain ⟨hvar, hslot, hacc, rfl⟩ := execPrsCompress_next.1 h
    exact execPrsCompress_next.2 ⟨hvar, hslot, hacc, (deliver_withSlots ..).symm⟩
  | prsDecompress =>
    obtain ⟨hvar, hslot, hacc, hrun⟩ := execPrsDecompress_next.1 h
    exact execPrsDecompress_next.2 ⟨hvar, hslot, hacc, runDecode_withSlots hrun⟩
  | prsSize =>
    obtain ⟨hvar, hslot, hacc, hrun⟩ := execPrsSize_next.1 h
    exact execPrsSize_next.2 ⟨hvar, hslot, hacc, runDecode_withSlots hrun⟩
  | cipherCreateKeys | cipherCrypt | cipherNextWord | cipherRelease => cases hi

/-- The exchange with the slots that are there already changes nothing, so the command leaves them. -/
theorem exec_keeps_slots {i : Instr} (hi : cipherSlot i = none) (h : exec i s = .next t) : t.slots = s.slots := by
  have hsame : exec i s = .next (t.withSlots s.slots) := exec_withSlots hi h s.slots
  rw [h, Host.Outcome.next.injEq] at hsame
  calc t.slots = (t.withSlots s.slots).slots := congrArg State.slots hsame
    _ = s.slots := rfl

end Sys2Proof.Machine
end

section
/-! SUPPORT. A cipher command reads and writes only its slot and its buffer (44_facade.md R198): its effect is one of the
slot's context, a map of the memory that is local to the buffer, and the values of `STATUS` and `RESULT`. -/

namespace Sys2Proof.Machine

/-! ### Maps of the memory -/

/-- The two memories hold the same bytes in `b`. -/
abbrev sameInside (b : Buffer) (m m' : Memory) : Prop := ∀ a, b.covers a → m.read a = m'.read a

/-- The map writes only bytes of `b`, and what it writes depends only on the bytes of `b`. -/
def LocalTo (b : Buffer) (f : Memory → Memory) : Prop :=
  (∀ m, sameOutside b m (f m)) ∧ ∀ m m', m.wf → m'.wf → sameInside b m m' → sameInside b (f m) (f m')

theorem localTo_id (b : Buffer) : LocalTo b id :=
  ⟨fun _ _ _ => rfl, fun _ _ _ _ h => h⟩

/-- The transform is local to its buffer: each word is XORed with a keystream word that no byte of memory enters. -/
theorem localTo_transformWords {b : Buffer} (hlen : b.len % 4 = 0) (c : Context) :
    LocalTo b fun m => (transformWords drawWord (b.len / 4) b.base m c).1 := by
  have hbytes : 4 * (b.len / 4) = b.len := Nat.mul_div_cancel' (Nat.dvd_of_mod_eq_zero hlen)
  refine ⟨fun m a ha => transformWords_read_outside drawWord _ _ m c (hbytes.symm ▸ ha), ?_⟩
  rintro m m' hm hm' hsame a ⟨hbase, hstop⟩
  unfold Buffer.stop at hstop
  have hj : (a - b.base) / 4 < b.len / 4 := by omega
  have hword : m.readWord (b.base + 4 * ((a - b.base) / 4)) = m'.readWord (b.base + 4 * ((a - b.base) / 4)) :=
    Memory.readWord_congr fun k hk => hsame _ ⟨by omega, by unfold Buffer.stop; omega⟩
  have hout : (transformWords drawWord (b.len / 4) b.base m c).1.readWord (b.base + 4 * ((a - b.base) / 4)) =
      (transformWords drawWord (b.len / 4) b.base m' c).1.readWord (b.base + 4 * ((a - b.base) / 4)) := by
    rw [transformWords_drawWord_readWord _ _ hm c hj, transformWords_drawWord_readWord _ _ hm' c hj, hword]
  have hbyte := Memory.read_of_readWord_eq hout (Nat.mod_lt (a - b.base) (by omega : 4 > 0))
  rwa [show b.base + 4 * ((a - b.base) / 4) + (a - b.base) % 4 = a by omega] at hbyte

/-! ### Effects -/

/-- What a cipher command leaves: its slot's context, the memory, `STATUS` and `RESULT`. -/
structure CipherEffect where
  ctx : Context
  mem : Memory → Memory
  status : Byte
  result : Word

/-- The effect on slot `k` of a state. -/
def CipherEffect.apply (e : CipherEffect) (k : Nat) (s : State) : State :=
  ((s.withMem (e.mem s.mem)).withSlot k e.ctx).withOutcome e.status e.result

@[simp] theorem CipherEffect.apply_mem (e : CipherEffect) (k : Nat) (s : State) :
    (e.apply k s).mem = e.mem s.mem := rfl
@[simp] theorem CipherEffect.apply_slots (e : CipherEffect) (k : Nat) (s : State) :
    (e.apply k s).slots = s.slots.set k e.ctx := rfl

variable {s t : State} {slot : Half} {ctx : Context} {i : Instr}

/-- An error leaves its slot as it is (R203). -/
theorem finishError_eq_apply (hslot : s.slots[slot.toNat]? = some ctx) (err : ErrorCode) :
    s.finishError err = CipherEffect.apply ⟨ctx, id, statusOf err, 0⟩ slot.toNat s := by
  obtain ⟨hlt, rfl⟩ := List.getElem?_eq_some_iff.1 hslot
  simp [CipherEffect.apply, State.finishError, State.withSlot, State.withSlots, State.withMem]

theorem afterCrypt_eq_apply (s : State) (k n a : Nat) (c : Context) :
    s.afterCrypt k (transformWords drawWord n a s.mem c) =
      CipherEffect.apply ⟨afterDraws n c, fun m => (transformWords drawWord n a m c).1, statusOk, 0⟩ k s := by
  rw [← transformWords_drawWord_context n a s.mem c]
  rfl

/-- `i` has one effect, local to its buffer, on every state with the configuration `cfg` and the context `ctx` in
`slot`. -/
def HasLocalEffect (i : Instr) (slot : Half) (cfg : Config) (ctx : Context) : Prop :=
  ∃ e : CipherEffect, LocalTo (cipherBuffer i) e.mem ∧
    ∀ s : State, s.cfg = cfg → s.slots[slot.toNat]? = some ctx → exec i s = .next (e.apply slot.toNat s)

/-- An effect that leaves the memory as it is. -/
theorem HasLocalEffect.of_context {cfg : Config} (c : Context) (status : Byte) (result : Word)
    (h : ∀ s : State, s.cfg = cfg → s.slots[slot.toNat]? = some ctx →
      exec i s = .next ((s.withSlot slot.toNat c).withOutcome status result)) : HasLocalEffect i slot cfg ctx :=
  ⟨⟨c, id, status, result⟩, localTo_id _, h⟩

theorem HasLocalEffect.of_error {cfg : Config} (err : ErrorCode)
    (h : ∀ s : State, s.cfg = cfg → s.slots[slot.toNat]? = some ctx → exec i s = .next (s.finishError err)) :
    HasLocalEffect i slot cfg ctx := by
  refine ⟨⟨ctx, id, statusOf err, 0⟩, localTo_id _, fun s hcfg hslot => ?_⟩
  rw [h s hcfg hslot, finishError_eq_apply hslot]

/-! ### The commands -/

theorem createKeys_hasLocalEffect {var : Byte} {seed : Word} (h : execCipherCreateKeys var slot seed s = .next t) :
    ∃ ctx, s.slots[slot.toNat]? = some ctx ∧ HasLocalEffect (.cipherCreateKeys var slot seed) slot s.cfg ctx := by
  obtain ⟨ctx, hslot, ⟨htag, -⟩ | ⟨htag, -⟩ | ⟨htag, -⟩⟩ := execCipherCreateKeys_next.1 h
  · refine ⟨ctx, hslot, .of_context (pcCreateKeys s.cfg seed ctx) statusOk 0 fun s' hcfg hslot' => ?_⟩
    exact execCipherCreateKeys_next.2 ⟨ctx, hslot', .inl ⟨htag, hcfg ▸ rfl⟩⟩
  · refine ⟨ctx, hslot, .of_context (gcCreateKeys s.cfg seed ctx) statusOk 0 fun s' hcfg hslot' => ?_⟩
    exact execCipherCreateKeys_next.2 ⟨ctx, hslot', .inr (.inl ⟨htag, hcfg ▸ rfl⟩)⟩
  · refine ⟨ctx, hslot, .of_error .unknownCipherVariant fun s' _ hslot' => ?_⟩
    exact execCipherCreateKeys_next.2 ⟨ctx, hslot', .inr (.inr ⟨htag, rfl⟩)⟩

/-- `CRYPT` is accepted on every state with the same configuration and the same slot. -/
theorem cryptAccepted_of_slot {s' : State} {bb bl flags : Word} (h : cryptAccepted s slot bb bl flags)
    (hcfg : s'.cfg = s.cfg) (hslot : s'.slots[slot.toNat]? = some ctx) : cryptAccepted s' slot bb bl flags := by
  obtain ⟨-, hflags, hvalid, hlen⟩ := h
  exact ⟨(List.getElem?_eq_some_iff.1 hslot).1, hflags, hcfg ▸ hvalid, hlen⟩

theorem crypt_hasLocalEffect {var : Byte} {bb bl flags : Word} (h : execCipherCrypt var slot bb bl flags s = .next t) :
    ∃ ctx, s.slots[slot.toNat]? = some ctx ∧ HasLocalEffect (.cipherCrypt var slot bb bl flags) slot s.cfg ctx := by
  obtain ⟨rfl, hacc, ctx, hslot, -⟩ := execCipherCrypt_next.1 h
  refine ⟨ctx, hslot, ?_⟩
  by_cases hv : ctx.variant = .none
  · refine .of_error .contextNotKeyed fun s' hcfg hslot' => ?_
    exact execCipherCrypt_next.2 ⟨rfl, cryptAccepted_of_slot hacc hcfg hslot', ctx, hslot', .inl ⟨hv, rfl⟩⟩
  · have hlen : (bufferOf bb bl).len % 4 = 0 := by
      obtain ⟨-, -, -, hmod⟩ := hacc
      exact hmod
    refine ⟨⟨afterDraws (bl.toNat / 4) ctx, _, statusOk, 0⟩, localTo_transformWords hlen ctx, fun s' hcfg hslot' => ?_⟩
    rw [exec_crypt_keyed hslot' hv (cryptAccepted_of_slot hacc hcfg hslot'), afterCrypt_eq_apply]
    rfl

theorem nextWord_hasLocalEffect {var : Byte} (h : execCipherNextWord var slot s = .next t) :
    ∃ ctx, s.slots[slot.toNat]? = some ctx ∧ HasLocalEffect (.cipherNextWord var slot) slot s.cfg ctx := by
  obtain ⟨rfl, ctx, hslot, -⟩ := execCipherNextWord_next.1 h
  refine ⟨ctx, hslot, ?_⟩
  by_cases hv : ctx.variant = .none
  · refine .of_error .contextNotKeyed fun s' _ hslot' => ?_
    exact execCipherNextWord_next.2 ⟨rfl, ctx, hslot', .inl ⟨hv, rfl⟩⟩
  · exact .of_context (drawWord ctx).2 statusOk (drawWord ctx).1 fun s' _ hslot' => exec_nextWord_keyed hslot' hv

theorem release_hasLocalEffect {var : Byte} (h : execCipherRelease var slot s = .next t) :
    ∃ ctx, s.slots[slot.toNat]? = some ctx ∧ HasLocalEffect (.cipherRelease var slot) slot s.cfg ctx := by
  obtain ⟨rfl, ctx, hslot, -⟩ := execCipherRelease_next.1 h
  refine ⟨ctx, hslot, .of_context { ctx with variant := .none } statusOk 0 fun s' _ hslot' => ?_⟩
  exact execCipherRelease_next.2 ⟨rfl, ctx, hslot', rfl⟩

theorem exec_hasLocalEffect (hi : cipherSlot i = some slot) (h : exec i s = .next t) :
    ∃ ctx, s.slots[slot.toNat]? = some ctx ∧ HasLocalEffect i slot s.cfg ctx := by
  cases i with
  | endStream | lcopyt | lcopyh | scopy | lit | prsCompress | prsDecompress | prsSize => cases hi
  | cipherCreateKeys => cases hi; exact createKeys_hasLocalEffect h
  | cipherCrypt => cases hi; exact crypt_hasLocalEffect h
  | cipherNextWord => cases hi; exact nextWord_hasLocalEffect h
  | cipherRelease => cases hi; exact release_hasLocalEffect h

/-- Settles O37: both states get the one effect of the command, which is local to the slot and the buffer; a PRS command
commutes with any exchange of the slots. -/
theorem cipherCommandTouchesOnlyItsSlot : Obligations.CipherCommandTouchesOnlyItsSlot := by
  refine ⟨fun i slot s s' t hi hwf hwf' hcfg hslots hmem h => ?cipher, fun i s t l hi h => ?prs⟩
  case cipher =>
    obtain ⟨ctx, hctx, e, ⟨hframe, hreads⟩, heffect⟩ := exec_hasLocalEffect hi h
    have hctx' : s'.slots[slot.toNat]? = some ctx := hslots ▸ hctx
    rw [heffect s rfl hctx, Host.Outcome.next.injEq] at h
    subst h
    refine ⟨⟨_, heffect s' hcfg.symm hctx', rfl, rfl, ?slot, hreads _ _ hwf hwf' hmem⟩, ?others, ?count,
      hframe s.mem, rfl, rfl, rfl, rfl⟩
    case slot => simp only [CipherEffect.apply_slots, List.getElem?_set_self', hctx, hctx']
    case others => exact fun k hk => List.getElem?_set_ne hk.symm
    case count => simp only [State.nCtx_eq, CipherEffect.apply_slots, List.length_set]
  case prs => exact ⟨exec_keeps_slots hi h, exec_withSlots hi h l⟩

end Sys2Proof.Machine
end

section
/-! The cipher errors: `UnknownCipherVariant` and `ContextNotKeyed` end a command with nothing but `STATUS` and `RESULT`
changed (60_exceptions.md R200, R203). The obligation on exceptions. -/

namespace Sys2Proof.Machine

variable {s : State} {slot : Half} {ctx : Context}

theorem variantTag_unknown {var : Byte} : variantTag var = .unknown ↔ var ∉ [0x00, 0x01, 0x02] := by
  rw [List.mem_cons, List.mem_cons, List.mem_singleton, ← variantTag_pc, ← variantTag_gc, ← variantTag_blueBurst]
  cases variantTag var <;> decide

theorem exec_nextWord_unkeyed (hslot : s.slots[slot.toNat]? = some ctx) (hv : ctx.variant = .none) :
    exec (.cipherNextWord 0 slot) s = .next (s.finishError .contextNotKeyed) :=
  execCipherNextWord_next.2 ⟨rfl, ctx, hslot, .inl ⟨hv, rfl⟩⟩

theorem exec_crypt_unkeyed (hslot : s.slots[slot.toNat]? = some ctx) (hv : ctx.variant = .none) {bb bl flags : Word}
    (hacc : cryptAccepted s slot bb bl flags) :
    exec (.cipherCrypt 0 slot bb bl flags) s = .next (s.finishError .contextNotKeyed) :=
  execCipherCrypt_next.2 ⟨rfl, hacc, ctx, hslot, .inl ⟨hv, rfl⟩⟩

theorem exec_createKeys_unknown {var : Byte} (hslot : slot.toNat < s.nCtx) (hvar : var ∉ [0x00, 0x01, 0x02])
    (seed : Word) :
    exec (.cipherCreateKeys var slot seed) s = .next (s.finishError .unknownCipherVariant) :=
  execCipherCreateKeys_next.2
    ⟨s.slots[slot.toNat], List.getElem?_eq_getElem hslot, .inr (.inr ⟨variantTag_unknown.2 hvar, rfl⟩)⟩

/-- Settles O34: each command ends in its error, and an error stores its code in `STATUS` and 0 in `RESULT` alone. -/
theorem cipherErrorsChangeNothingElse : Obligations.CipherErrorsChangeNothingElse :=
  ⟨fun _ _ _ hslot hv => ⟨exec_nextWord_unkeyed hslot hv, fun _ _ _ hacc => exec_crypt_unkeyed hslot hv hacc⟩,
    fun _ _ _ seed hslot hvar => exec_createKeys_unknown hslot hvar seed⟩

end Sys2Proof.Machine
end

section
/-! The host's reset (70_reset_and_hazards.md R220). The obligation on reset between commands. -/

namespace Sys2Proof.Machine

variable {s : State}

@[simp] theorem hostReset_nCtx : (hostReset s).nCtx = s.nCtx := by
  rw [State.nCtx_eq, State.nCtx_eq, hostReset_slots, List.length_replicate]

/-- The host's reset leaves every slot as power-on reset does (R43). -/
theorem hostReset_slots_eq {c : Context} (h : c ∈ (hostReset s).slots) : c = Context.reset :=
  List.eq_of_mem_replicate (hostReset_slots s ▸ h)

/-- Settles O52: what `hostReset` does to each field, and its one value for every slot. -/
theorem hostResetKeepsMemory : Obligations.HostResetKeepsMemory := by
  intro s
  refine ⟨hostReset_mem s, hostReset_nCtx, hostReset_status s, hostReset_result s, hostReset_job s, fun c hc => ?_⟩
  rw [hostReset_slots_eq hc]
  exact ⟨rfl, rfl, rfl, rfl, rfl⟩

end Sys2Proof.Machine
end
